-- ==== Sys2Proof/Word.lean ====
section
/-! DEFINITION. The widths the spec names: a byte (R8), a sixteen-bit palette entry (R26), a pattern block (R30). -/

namespace Sys2Proof

/-- One byte, bit 7 the most significant (R8). Every port write carries one (R34). -/
abbrev Byte := BitVec 8

/-- One palette entry (R26). -/
abbrev Entry := BitVec 16

/-- A **PatternBlock**: exactly 256 bytes (R30). -/
abbrev Block := Vector Byte 256

end Sys2Proof
end

