-- ==== Sys2Proof/Config.lean ====
section
/-! DEFINITION. What is fixed for one machine: the parameters of rule R6, the constraints of rule R7, and the free
values (constants without a body) for everything the spec leaves to the environment or unspecified at reset. -/

namespace Sys2Proof

/-! ## Parameters whose value is the source's (R6) -/

namespace Config

/-- `BIAS` (R6): what the extended forms add to x and y. -/
abbrev bias : Nat := 32
/-- `X_MAX` (R6): the horizontal clamp. -/
abbrev xMax : Nat := 255
/-- `Y_MIN` (R6). -/
abbrev yMin : Nat := 0
/-- `Y_MAX` (R6): the vertical bound. -/
abbrev yMax : Nat := 192
/-- `SYNC_LINE` (R6): the scanline the frame wait synchronises to. -/
abbrev syncLine : Nat := 192
/-- `PATTERN_PERIOD` (R6): ticks between pattern advances; the four bits of `phase` (R17) count modulo it. -/
abbrev patternPeriod : Nat := 16
/-- `N_PATTERN_SLOTS` (R6). -/
abbrev nPatternSlots : Nat := 64
/-- `PATTERN_BLOCK` (R6): bytes in one pattern. -/
abbrev patternBlock : Nat := 256
/-- `PALETTE_ENTRIES` (R6). -/
abbrev paletteEntries : Nat := 256
/-- One half of the palette (R6, R26). -/
abbrev paletteHalf : Nat := 128
/-- `REL_MARKER` (R6, R60). -/
abbrev relMarker : Byte := 0x40#8
/-- `REL_MARKER_PATREL` (R6, R60). -/
abbrev relMarkerPatRel : Byte := 0x41#8

end Config

/-- `REL_XHI_MODE` (R6, R80): which x feeds the X-high bit of a relative record. -/
inductive XhiMode where
  | anchor
  | delta
deriving DecidableEq, Repr, Inhabited

/-- The raw draw of rule R85, `draw({-1, 0, +1})`. -/
inductive RawDraw where
  | minus
  | zero
  | plus
deriving DecidableEq, Repr, Inhabited

/-- The parameters of rule R6 that are an argument, decided or open. `N_SPRITES` is the size of the sprite register
file, `PATTERN_SET_SIZE` the length of `patternSet`. DESIGN CHOICE (log entry 1): they stand in State as one field that
no step changes, so a statement about every state is about every configuration. -/
structure Params where
  /-- `N_ATTR_SLOTS` -/
  nAttrSlots : Nat
  /-- `LINE_W` -/
  lineW : Nat
  /-- `PATTERN_SET` -/
  patternSet : List Byte
  /-- `ATTR_BASE`; one byte, since SELECT_SLOT writes it in one port write (R76, R91) -/
  attrBase : Byte
  /-- `ANIM_PALETTE` -/
  animPalette : Byte
  /-- `UNIFIED_MARKER` -/
  unifiedMarker : Byte
  /-- `REL_XHI_MODE` -/
  relXhiMode : XhiMode
  /-- `X_START` -/
  xStart : Nat
  /-- `X_STEP` -/
  xStep : Nat
  /-- `Y_START` -/
  yStart : Nat
  /-- `REG_PAT_SLOT` -/
  regPatSlot : Byte
  /-- `REG_PAL_INDEX` -/
  regPalIndex : Byte
  /-- `REG_PAL_DATA` -/
  regPalData : Byte
deriving DecidableEq, Repr

/-- The defaults of rule R6. The open ones (`N_ATTR_SLOTS`, `LINE_W`, the three register ids) have no default in the
spec: the values here are a DESIGN CHOICE (log entry 1) and no statement rests on them. -/
def Params.default : Params where
  nAttrSlots := 128
  lineW := 9
  patternSet := [0x00#8, 0x01#8]
  attrBase := 0x00#8
  animPalette := 0x00#8
  unifiedMarker := 0x20#8
  relXhiMode := .anchor
  xStart := 1
  xStep := 16
  yStart := 32
  regPatSlot := 0x00#8
  regPalIndex := 0x01#8
  regPalData := 0x02#8

/-- `N_SPRITES` of the reset state: the default of rule R6. -/
abbrev Config.nSpritesDefault : Nat := 10

/-- The constraints of rule R7 on the parameters and `N_SPRITES`, and `LINE_W >= 8` (R6). -/
def Params.valid (p : Params) (nSprites : Nat) : Bool :=
  decide (1 ≤ nSprites) &&
  decide (p.xStart + p.xStep * (nSprites - 1) ≤ Config.xMax) &&
  decide (p.yStart ≤ Config.yMax) &&
  decide (1 ≤ p.patternSet.length) &&
  p.patternSet.all (fun k => decide (k.toNat < Config.nPatternSlots)) &&
  decide (p.attrBase.toNat + nSprites ≤ p.nAttrSlots) &&
  decide (8 ≤ p.lineW)

/-! ## Free values

Constants without a body: nothing can be proved about what they are. The first three are applied to the counter
`Env.taken`, so that each use is a fresh value. -/

/-- The scanline value of a `PortRead(P_LINE)` for which the environment's list holds none (R37, R92; log entry 9). -/
opaque Config.freeLine : Nat → Nat

/-- The velocity draw for which the environment's list holds none (R85; log entry 10). -/
opaque Config.freeDraw : Nat → RawDraw

/-- The byte a `PortRead(P_REGDATA)` returns where the environment's list holds none (R37, R102; log entry 11). -/
opaque Config.freeData : Nat → Byte

/-- The three stores behind the ports (R33). -/
inductive Bank where
  | attr
  | pat
  | pal
deriving DecidableEq, Repr

/-- The byte at an address of a store at reset: arbitrary, the same until something writes it (R23, R25, R26, R127; log
entry 3). -/
opaque Config.resetByte : Bank → Nat → Byte

/-- `reg_sel` at reset (R24, R127; log entry 2). -/
opaque Config.resetRegSel : Byte

/-- `attr_slot` at reset, before the reduction to an index below `N_ATTR_SLOTS` (R21, R127; log entry 2). -/
opaque Config.resetAttrSlot : Nat

/-- `attr_byte` at reset (R22, R127; log entry 2). -/
opaque Config.resetAttrByte : Fin 5

/-- `pat_slot` at reset (R25, R127; log entry 2). -/
opaque Config.resetPatSlot : BitVec 6

/-- `pat_pos` at reset (R25, R127; log entry 2). -/
opaque Config.resetPatPos : Byte

/-- `pal_index` at reset (R26, R127; log entry 2). -/
opaque Config.resetPalIndex : Byte

/-- `pal_half` at reset (R26, R127; log entry 2). -/
opaque Config.resetPalHalf : Bool

end Sys2Proof
end

