-- ==== Sys2Proof/Syntax.lean ====
section
/-! DEFINITION. The operand types and the instructions: the 23 operations of rule R66 and the four record formats of
rule R53, one constructor for each row of the opcode table, and what can be presented to the machine from outside. -/

namespace Sys2Proof

/-- `anchorMode` (R12, R19). The deltas are integers here, so that a delta outside -128..127 can be asked for and
refused (R72). -/
inductive AnchorMode where
  | standalone
  | extendedAnchor
  | relativeToAnchor (dx dy : Int)
deriving DecidableEq, Repr

/-- The operand record, **SpriteAttributeRecord** (R19). `x` arrives as a value of at least 9 bits and the encoder
reduces it, so it is a natural number; `patternSlot` and `paletteOffset` arrive as bytes and are masked. -/
structure SpriteRecord where
  x : Nat
  y : Byte
  patternSlot : Byte
  paletteOffset : Byte
  mirrorX : Bool
  mirrorY : Bool
  rotate90 : Bool
  visible : Bool
  xscale : BitVec 2
  yscale : BitVec 2
  anchorMode : AnchorMode
deriving DecidableEq, Repr

/-- The record whose omitted fields take the defaults of rule R70. -/
def SpriteRecord.default : SpriteRecord where
  x := 0
  y := 0x00#8
  patternSlot := 0x00#8
  paletteOffset := 0x00#8
  mirrorX := false
  mirrorY := false
  rotate90 := false
  visible := true
  xscale := 0#2
  yscale := 0#2
  anchorMode := .standalone

/-- The frame budget of RUN: a natural number, or ∞ (R94). -/
inductive Budget where
  | finite (n : Nat)
  | infinite
deriving DecidableEq, Repr

/-- The loader interface (R108), as one operand: whether `open` succeeds, and what each `read` delivers in turn, 256
bytes or a failure (`none`). A read past the end of the list fails (log entry 18). -/
structure Source where
  opens : Bool
  reads : List (Option Block)
deriving DecidableEq, Repr

/-- The first four bytes of a record, field by field as the table's patterns name them (R53): x is b0, y is b1, p m n r
h are b2, v and s are b3 without the E bit. -/
structure RecHead where
  x : Byte
  y : Byte
  p : BitVec 4
  m : Bool
  n : Bool
  r : Bool
  h : Bool
  v : Bool
  s : BitVec 6
deriving DecidableEq, Repr

/-- One constructor for each row of the opcode table. -/
inductive Instr where
  | selectSlot (s : Byte)
  | encAbs (r : SpriteRecord)
  | encExt (r : SpriteRecord)
  | encAnchor (r : SpriteRecord) (unified : Bool)
  | encRel (r a : SpriteRecord) (patrel : Bool)
  | spawn (i : Nat) (x y : Byte) (vx vy : Int)
  | init
  | patcycle
  | hstep (i : Nat)
  | vstep (i : Nat)
  | tick
  | emitAll
  | waitFrame
  | frame
  | run (n : Budget)
  | regSelect (id : Byte)
  | regWrite (v : Byte)
  | regRead
  | selectPatternSlot (slot : Byte)
  | uploadPattern (block : List Byte)
  | uploadPatternSeries (blocks : Source) (startSlot count : Nat)
  | uploadPalette (bank : Option (List Entry)) (paletteIndex length : Nat)
  | loadPaletteFromSource (source : Source)
  | rec4 (h : RecHead)
  | rec5s (h : RecHead) (a b : BitVec 2)
  | rec5a (h : RecHead) (u : Bool)
  | rec5r (h : RecHead) (t : Bool)
deriving DecidableEq, Repr

/-- The ports of rule R33, abstract names without numbers (R44). -/
inductive Port where
  | slot
  | attr
  | line
  | regSel
  | regData
  | pattern
deriving DecidableEq, Repr

/-- The operand bus (R75): one wire group for each operand, presented in parallel with the selector. -/
structure OperandBus where
  /-- SELECT_SLOT's s, REG_SELECT's id, REG_WRITE's v, SELECT_PATTERN_SLOT's slot -/
  byte : Byte
  /-- the operand record r -/
  record : SpriteRecord
  /-- ENC_REL's reference anchor a -/
  anchor : SpriteRecord
  /-- ENC_ANCHOR's unified, ENC_REL's patrel -/
  flag : Bool
  /-- the sprite index i -/
  index : Nat
  x : Byte
  y : Byte
  vx : Int
  vy : Int
  /-- RUN's n -/
  budget : Budget
  /-- UPLOAD_PATTERN's block -/
  block : List Byte
  /-- the loader's source: UPLOAD_PATTERN_SERIES's blocks, LOAD_PALETTE_FROM_SOURCE's source -/
  source : Source
  /-- UPLOAD_PALETTE's bank -/
  bank : Option (List Entry)
  /-- UPLOAD_PATTERN_SERIES's startSlot, UPLOAD_PALETTE's paletteIndex -/
  start : Nat
  /-- UPLOAD_PATTERN_SERIES's count, UPLOAD_PALETTE's length -/
  count : Nat
deriving DecidableEq, Repr

/-- What the decoder reads: an 8-bit selector with its operands on the command interface (R66, R75), or the bytes of
one whole record presented at the attribute port (R53; log entry 7). -/
inductive Request where
  | command (selector : Byte) (bus : OperandBus)
  | record (bytes : List Byte)
deriving DecidableEq, Repr

/-- One thing the outside world presents: a request, or one bare port write of an external writer (R41; log entry
8). -/
inductive Input where
  | request (q : Request)
  | portWrite (p : Port) (v : Byte)
deriving DecidableEq, Repr

end Sys2Proof
end

