-- ==== Sys2Proof/WellFormed.lean ====
section
/-! DEFINITION. Which instructions have every operand inside its operand type, as far as that does not depend on the
machine's state or parameters. A meaning makes its own checks and does not rest on these. -/

namespace Sys2Proof

/-- A delta of a relative record is an int8 (R72). -/
def deltaOk (d : Int) : Bool := decide (-128 ≤ d) && decide (d ≤ 127)

/-- A velocity is -1 or +1 (R15, R83). -/
def velocityOk (v : Int) : Bool := decide (v = 1) || decide (v = -1)

/-- How many entries UPLOAD_PALETTE sends, `length'` (R106). -/
def clampedLength (paletteIndex length : Nat) : Nat := min length (Config.paletteEntries - paletteIndex)

/-- ENC_REL takes a record whose anchorMode is RelativeToAnchor with deltas in range (R72, R73). -/
def AnchorMode.relativeOk : AnchorMode → Bool
  | .relativeToAnchor dx dy => deltaOk dx && deltaOk dy
  | .standalone => false
  | .extendedAnchor => false

/-- UPLOAD_PALETTE's bank is absent, or holds up to 256 entries (R30) and at least the ones to be sent (R106). -/
def bankOk : Option (List Entry) → Nat → Nat → Bool
  | none, _, _ => true
  | some b, idx, len => decide (b.length ≤ Config.paletteEntries) && decide (clampedLength idx len ≤ b.length)

/-- The operand-type checks, one line each. -/
def Instr.wf : Instr → Bool
  | .selectSlot _ => true
  | .encAbs _ => true
  | .encExt _ => true
  | .encAnchor r _ => decide (r.anchorMode = .extendedAnchor)
  | .encRel r _ _ => r.anchorMode.relativeOk
  | .spawn _ _ y vx vy => decide (y.toNat ≤ Config.yMax) && velocityOk vx && velocityOk vy
  | .init => true
  | .patcycle => true
  | .hstep _ => true
  | .vstep _ => true
  | .tick => true
  | .emitAll => true
  | .waitFrame => true
  | .frame => true
  | .run _ => true
  | .regSelect _ => true
  | .regWrite _ => true
  | .regRead => true
  | .selectPatternSlot _ => true
  | .uploadPattern block => decide (block.length = Config.patternBlock)
  | .uploadPatternSeries _ _ _ => true
  | .uploadPalette bank idx len => bankOk bank idx len
  | .loadPaletteFromSource _ => true
  | .rec4 _ => true
  | .rec5s _ a b => !(decide (a = 0#2) && decide (b = 0#2))
  | .rec5a _ _ => true
  | .rec5r _ _ => true

end Sys2Proof
end

