-- ==== Sys2Proof/Decode.lean ====
section
/-! DEFINITION. The decoder and the encoder, both written from the selector table of rule R66 and the record formats of
rule R53, and the field view of a stored record of rule R69. -/

namespace Sys2Proof

/-! ## Bit fields of a record (R53) -/

/-- A flag as a byte with that one bit at position `n`. -/
def bitAt (b : Bool) (n : Nat) : Byte := (BitVec.ofBool b).setWidth 8 <<< n

/-- `b2` of rule R53 from its fields. -/
def packB2 (p : BitVec 4) (m n r h : Bool) : Byte :=
  (p.setWidth 8 <<< 4) ||| bitAt m 3 ||| bitAt n 2 ||| bitAt r 1 ||| bitAt h 0

/-- `b3` of rule R53 from its fields. -/
def packB3 (v e : Bool) (s : BitVec 6) : Byte := bitAt v 7 ||| bitAt e 6 ||| s.setWidth 8

/-- The E bit of a fourth byte (R57, R67). -/
def eBit (b3 : Byte) : Bool := b3.getLsbD 6

/-- The first four bytes of a record, E aside, read field by field (R53). -/
def unpackHead (b0 b1 b2 b3 : Byte) : RecHead where
  x := b0
  y := b1
  p := b2.extractLsb' 4 4
  m := b2.getLsbD 3
  n := b2.getLsbD 2
  r := b2.getLsbD 1
  h := b2.getLsbD 0
  v := b3.getLsbD 7
  s := b3.extractLsb' 0 6

/-- The first four bytes of a record with the given E bit (R53). -/
def packHead (h : RecHead) (e : Bool) : List Byte :=
  [h.x, h.y, packB2 h.p h.m h.n h.r h.h, packB3 h.v e h.s]

/-- `b4` of REC5S (R58). -/
def scaleByte (a b : BitVec 2) : Byte := (a.setWidth 8 <<< 3) ||| (b.setWidth 8 <<< 1)

/-- `b4` of the REC5A row of the table, `00u00000` (R59). DESIGN CHOICE (log entry 29): the row keeps bit 5 also where the
parameter UNIFIED_MARKER, which ENC_ANCHOR writes, is not 0x20. -/
def anchorByte (u : Bool) : Byte := bitAt u 5

/-- `b4` of REC5R (R60). -/
def relativeByte (t : Bool) : Byte := if t then Config.relMarkerPatRel else Config.relMarker

/-! ## Decoding -/

/-- Why a request is no instruction. -/
inductive DecodeError where
  /-- A selector that rule R66 does not assign (R74). -/
  | unassignedSelector (selector : Byte)
  /-- A byte list whose length is not the one its fourth byte's E bit says (R67). -/
  | recordLength (length : Nat)
  /-- A fifth byte that no record format has (R68 (g)). -/
  | fifthByte (b4 : Byte)
deriving DecidableEq, Repr

/-- The selector table of rule R66. -/
def decodeCommand (selector : Byte) (bus : OperandBus) : Except DecodeError Instr :=
  match selector.toNat with
  | 0x00 => .ok (.selectSlot bus.byte)
  | 0x01 => .ok (.encAbs bus.record)
  | 0x02 => .ok (.encExt bus.record)
  | 0x03 => .ok (.encAnchor bus.record bus.flag)
  | 0x04 => .ok (.encRel bus.record bus.anchor bus.flag)
  | 0x10 => .ok (.spawn bus.index bus.x bus.y bus.vx bus.vy)
  | 0x11 => .ok .init
  | 0x12 => .ok .patcycle
  | 0x13 => .ok (.hstep bus.index)
  | 0x14 => .ok (.vstep bus.index)
  | 0x15 => .ok .tick
  | 0x16 => .ok .emitAll
  | 0x17 => .ok .waitFrame
  | 0x18 => .ok .frame
  | 0x19 => .ok (.run bus.budget)
  | 0x20 => .ok (.regSelect bus.byte)
  | 0x21 => .ok (.regWrite bus.byte)
  | 0x22 => .ok .regRead
  | 0x23 => .ok (.selectPatternSlot bus.byte)
  | 0x24 => .ok (.uploadPattern bus.block)
  | 0x25 => .ok (.uploadPatternSeries bus.source bus.start bus.count)
  | 0x26 => .ok (.uploadPalette bus.bank bus.start bus.count)
  | 0x27 => .ok (.loadPaletteFromSource bus.source)
  | _ => .error (.unassignedSelector selector)

/-- Which five-byte format a fifth byte belongs to: bits 7:6 = 01 the relative marker, bit 5 alone or nothing the
anchor byte, bits 4:1 alone the scale byte (R53, R69). A fifth byte of 0x00 is read as REC5A, the only format that
produces it (R69; log entry 24). DESIGN CHOICE (log entry 29): bit 5 is the anchor's marker here whatever UNIFIED_MARKER
is. -/
def decodeFive (h : RecHead) (b4 : Byte) : Except DecodeError Instr :=
  if b4 &&& 0xFE#8 = 0x40#8 then .ok (.rec5r h (b4.getLsbD 0))
  else if b4 &&& 0xDF#8 = 0x00#8 then .ok (.rec5a h (b4.getLsbD 5))
  else if b4 &&& 0xE1#8 = 0x00#8 then .ok (.rec5s h (b4.extractLsb' 3 2) (b4.extractLsb' 1 2))
  else .error (.fifthByte b4)

/-- A whole record, by its length and the E bit of its fourth byte (R67). -/
def decodeRecord : List Byte → Except DecodeError Instr
  | [b0, b1, b2, b3] => if eBit b3 then .error (.recordLength 4) else .ok (.rec4 (unpackHead b0 b1 b2 b3))
  | [b0, b1, b2, b3, b4] => if eBit b3 then decodeFive (unpackHead b0 b1 b2 b3) b4 else .error (.recordLength 5)
  | bytes => .error (.recordLength bytes.length)

/-- Decoding is total: an instruction, or the name of what is wrong. -/
def decode : Request → Except DecodeError Instr
  | .command selector bus => decodeCommand selector bus
  | .record bytes => decodeRecord bytes

/-! ## Encoding -/

/-- The record with every wire at 0. -/
def SpriteRecord.zero : SpriteRecord := { SpriteRecord.default with visible := false }

/-- The operand bus with every wire group at 0, or at its empty or first value. -/
def OperandBus.zero : OperandBus where
  byte := 0x00#8
  record := SpriteRecord.zero
  anchor := SpriteRecord.zero
  flag := false
  index := 0
  x := 0x00#8
  y := 0x00#8
  vx := 0
  vy := 0
  budget := .finite 0
  block := List.replicate Config.patternBlock 0x00#8
  source := { opens := false, reads := [] }
  bank := none
  start := 0
  count := 0

/-- How an instruction is presented: its selector with its operands on the bus (R66, R75), or the record's bytes
(R53). -/
def encode : Instr → Request
  | .selectSlot s => .command 0x00#8 { OperandBus.zero with byte := s }
  | .encAbs r => .command 0x01#8 { OperandBus.zero with record := r }
  | .encExt r => .command 0x02#8 { OperandBus.zero with record := r }
  | .encAnchor r unified => .command 0x03#8 { OperandBus.zero with record := r, flag := unified }
  | .encRel r a patrel => .command 0x04#8 { OperandBus.zero with record := r, anchor := a, flag := patrel }
  | .spawn i x y vx vy => .command 0x10#8 { OperandBus.zero with index := i, x := x, y := y, vx := vx, vy := vy }
  | .init => .command 0x11#8 OperandBus.zero
  | .patcycle => .command 0x12#8 OperandBus.zero
  | .hstep i => .command 0x13#8 { OperandBus.zero with index := i }
  | .vstep i => .command 0x14#8 { OperandBus.zero with index := i }
  | .tick => .command 0x15#8 OperandBus.zero
  | .emitAll => .command 0x16#8 OperandBus.zero
  | .waitFrame => .command 0x17#8 OperandBus.zero
  | .frame => .command 0x18#8 OperandBus.zero
  | .run n => .command 0x19#8 { OperandBus.zero with budget := n }
  | .regSelect id => .command 0x20#8 { OperandBus.zero with byte := id }
  | .regWrite v => .command 0x21#8 { OperandBus.zero with byte := v }
  | .regRead => .command 0x22#8 OperandBus.zero
  | .selectPatternSlot slot => .command 0x23#8 { OperandBus.zero with byte := slot }
  | .uploadPattern block => .command 0x24#8 { OperandBus.zero with block := block }
  | .uploadPatternSeries blocks startSlot count =>
    .command 0x25#8 { OperandBus.zero with source := blocks, start := startSlot, count := count }
  | .uploadPalette bank paletteIndex length =>
    .command 0x26#8 { OperandBus.zero with bank := bank, start := paletteIndex, count := length }
  | .loadPaletteFromSource source => .command 0x27#8 { OperandBus.zero with source := source }
  | .rec4 h => .record (packHead h false)
  | .rec5s h a b => .record (packHead h true ++ [scaleByte a b])
  | .rec5a h u => .record (packHead h true ++ [anchorByte u])
  | .rec5r h t => .record (packHead h true ++ [relativeByte t])

/-- How many bits of an encoded instruction the opcode table numbers: 8 for a command's selector, 8 a byte for a record. -/
def Request.tableBits : Request → Nat
  | .command _ _ => 8
  | .record bytes => 8 * bytes.length

/-! ## The opcode table's words -/

/-- The operands a bare selector is presented with, since the table gives a command no operand bits: every wire at 0,
but for the operands whose type has no such value, which are at their first legal one (log entry 21). -/
def bareOperands (selector : Byte) : OperandBus :=
  match selector.toNat with
  | 0x03 => { OperandBus.zero with record := { SpriteRecord.zero with anchorMode := .extendedAnchor } }
  | 0x04 => { OperandBus.zero with record := { SpriteRecord.zero with anchorMode := .relativeToAnchor 0 0 } }
  | 0x10 => { OperandBus.zero with vx := 1, vy := 1 }
  | _ => OperandBus.zero

/-- The `n` bytes of a number, most significant first: the table numbers a record with `b0` on the most significant
side (R8; log entry 21). -/
def bytesOf : Nat → Nat → List Byte
  | 0, _ => []
  | n + 1, w => BitVec.ofNat 8 (w / 256 ^ n) :: bytesOf n w

/-- A four-byte word whose E bit asks for a fifth byte is followed by a byte of zeros; any other word stands as it is. -/
def completeRecord : List Byte → List Byte
  | [b0, b1, b2, b3] => if eBit b3 then [b0, b1, b2, b3, 0x00#8] else [b0, b1, b2, b3]
  | bytes => bytes

/-- The request that stands for a word of the opcode table: 8 bits are a selector, 32 or 40 bits a record. -/
def tableRequest (nbits w : Nat) : Request :=
  if nbits = 8 then .command (BitVec.ofNat 8 w) (bareOperands (BitVec.ofNat 8 w))
  else .record (completeRecord (bytesOf (nbits / 8) w))

/-- The instruction the decoder reads from a word of the opcode table. -/
def decodeTableWord (nbits w : Nat) : Option Instr :=
  match decode (tableRequest nbits w) with
  | .ok i => some i
  | .error _ => none

/-! ## The field view of a stored record (R69) -/

/-- What the fifth byte says (R69). -/
inductive FifthView where
  /-- E is 0: there is no fifth byte. -/
  | absent
  /-- Bits 7:6 are 01: a relative record. -/
  | relative (patternRelative : Bool) (dx dy : Int)
  /-- A standalone or anchor record. -/
  | plain (xscale yscale : BitVec 2) (unified : Bool)
deriving DecidableEq, Repr

/-- A record's fields as rule R69 names them. -/
structure RecordView where
  x9 : BitVec 9
  y8 : Byte
  paletteOffset : BitVec 4
  mirrorX : Bool
  mirrorY : Bool
  rotate90 : Bool
  visible : Bool
  e : Bool
  patternSlot : BitVec 6
  fifth : FifthView
deriving DecidableEq, Repr

/-- The fifth byte's view (R69). -/
def viewFifth (e : Bool) (b0 b1 b4 : Byte) : FifthView :=
  if e then
    if b4.extractLsb' 6 2 = 0b01#2 then .relative (b4.getLsbD 0) b0.toInt b1.toInt
    else .plain (b4.extractLsb' 3 2) (b4.extractLsb' 1 2) (b4.getLsbD 5)
  else .absent

/-- Decoding a record from the five stored bytes of a slot (R69); the fifth is read only when E is 1. -/
def viewRecord (b0 b1 b2 b3 b4 : Byte) : RecordView where
  x9 := (BitVec.ofBool (b2.getLsbD 0)) ++ b0
  y8 := b1
  paletteOffset := b2.extractLsb' 4 4
  mirrorX := b2.getLsbD 3
  mirrorY := b2.getLsbD 2
  rotate90 := b2.getLsbD 1
  visible := b3.getLsbD 7
  e := eBit b3
  patternSlot := b3.extractLsb' 0 6
  fifth := viewFifth (eBit b3) b0 b1 b4

end Sys2Proof
end

