-- ==== Sys2Proof/Machine/State.lean ====
section
/-! DEFINITION. The machine's state as plain data: the engine's registers, the coprocessor's state behind the ports, the
trace, and what the outside world supplies; why a step can stop; and the state right after reset. -/

namespace Sys2Proof.Machine

/-- A velocity, -1 or +1 (R13, R15); how it is stored is left to the model (R15). -/
inductive Dir where
  | minus
  | plus
deriving DecidableEq, Repr

/-- A written sprite register, the source's BouncingSprite (R13). `pat` indexes PATTERN_SET, `mir` is the mirror flag
(R16). -/
structure Sprite where
  x : Byte
  y : Byte
  vx : Dir
  vy : Dir
  pat : Nat
  mir : Bool
deriving DecidableEq, Repr

/-- The sequencer's values (R18). -/
inductive Seq where
  | idle
  | update
  | emit
  | waitLeave
  | waitEnter
  | halt
deriving DecidableEq, Repr

/-- Which operation the sequencer is in the middle of: the model's own, since WAIT_FRAME, FRAME and RUN last for many
steps (log entry 5). `run b` has `b` frames left, the present one included. -/
inductive Loop where
  | none
  | wait
  | frame
  | run (left : Budget)
deriving DecidableEq, Repr

/-- The state inside the block (R13 to R18). -/
structure Engine where
  /-- `S[0] .. S[N_SPRITES-1]`; `none` is the spec's *unwritten* (R14). Its length is `N_SPRITES`. -/
  sprites : List (Option Sprite)
  /-- The tick phase counter, four bits (R17). -/
  phase : BitVec 4
  /-- The sequencer (R18). -/
  seq : Seq
  /-- The operation in progress. -/
  loop : Loop
deriving DecidableEq, Repr

/-- A store behind the ports: the bytes written since reset by address, addresses strictly rising (log entry 3). -/
abbrev Memory := List Host.Cell

/-- What an address that no write has reached since reset reads as: the store's arbitrary byte there (R23, R25, R26,
R127; log entry 3). -/
def Memory.unlisted (b : Bank) (a : Nat) : Byte := Config.resetByte b a

/-- The canonical form: addresses strictly rise, so stores with the same written bytes are equal lists (log entry 3). -/
abbrev Memory.wf (m : Memory) : Prop := m.Pairwise (fun c d => c.1 < d.1)

/-- The state on the far side of the ports (R21 to R26). -/
structure Coproc where
  /-- `attr_slot` (R21). -/
  attrSlot : Nat
  /-- `attr_byte`, the hidden byte counter (R22). -/
  attrByte : Fin 5
  /-- `ATTR[s][k]` (R23), at address 5 s + k. -/
  attr : Memory
  /-- `reg_sel` (R24). -/
  regSel : Byte
  /-- Whether P_REGSEL has been written since reset, on which R101 and R102 make their refusal depend: the model's own
  mark, no register of the hardware (log entry 28). -/
  regChosen : Bool
  /-- `pat_slot` (R25). -/
  patSlot : BitVec 6
  /-- `pat_pos` (R25). -/
  patPos : Byte
  /-- `PAT[p][n]` (R25), at address 256 p + n. -/
  pat : Memory
  /-- `pal_index` (R26). -/
  palIndex : Byte
  /-- `pal_half` (R26): false, the next data byte is the low byte of an entry. -/
  palHalf : Bool
  /-- `PAL[e]` (R26), its low byte at address 2 e, its high byte at 2 e + 1. -/
  pal : Memory
deriving DecidableEq, Repr

/-- A port event (R27): `W(P, v)` or `R(P, v)`. -/
inductive Event where
  | w (p : Port) (v : Byte)
  | r (p : Port) (v : Nat)
deriving DecidableEq, Repr

/-- What the block asked of the loader interface (R108). -/
inductive LoaderEvent where
  | opened
  | openFailed
  | read (ok : Bool)
  | closed
deriving DecidableEq, Repr

/-- The outside world (R28): what it has presented and will supply, and what it has been handed. None of it is the
hardware's state. -/
structure Env where
  /-- What is presented on the command interface and the ports, in order (log entry 4). -/
  inputs : List Input
  /-- The scanline samples to come; past its end a sample is free (log entry 9). -/
  line : List Nat
  /-- The velocity draws to come; past its end a draw is free (log entry 10). -/
  draws : List RawDraw
  /-- The bytes `PortRead(P_REGDATA)` will return; past its end a byte is free (log entry 11). -/
  data : List Byte
  /-- How many free values have been taken. -/
  taken : Nat
  /-- The byte the last REG_READ returned (R102), if one has. -/
  result : Option Byte
  /-- What has been asked of the loader interface (R108). -/
  loader : List LoaderEvent
deriving DecidableEq, Repr

/-- The whole machine. -/
structure State where
  /-- The parameters of rule R6; no step changes them. -/
  cfg : Params
  engine : Engine
  port : Coproc
  /-- The trace `T`, oldest event first (R27). -/
  trace : List Event
  env : Env
deriving DecidableEq, Repr

/-- Why the machine could stop with a fault: never. The block has no exception, no trap and no fault signal (R111,
R113). Nothing raises a fault, so this is neither safe nor unsafe. -/
inductive Fault where
deriving DecidableEq, Repr

/-- Why the model gives a request no meaning (R118). Every one is safe: no claim can be proved from a refused
request. -/
inductive Refusal where
  /-- Raised by exec for an instruction that has no meaning yet; safe. -/
  | notModelled (mnemonic : String)
  /-- Raised by step when the parameters break rule R7 (R118); safe. -/
  | badConfiguration
  /-- Raised by step for a request that is no instruction (R74, R67, R68); safe. -/
  | undecodable (e : DecodeError)
  /-- Raised by HSTEP, VSTEP, PATCYCLE, TICK, EMIT_ALL, FRAME and RUN when a sprite register they range over is
  unwritten (R14); safe. -/
  | unwrittenSprite
  /-- Raised by SPAWN, HSTEP and VSTEP when i >= N_SPRITES (R83, R87, R88, R118); safe. -/
  | spriteIndex
  /-- Raised by SPAWN when y > Y_MAX (R83); safe. -/
  | spawnY
  /-- Raised by SPAWN when a velocity is neither -1 nor +1 (R83); safe. -/
  | velocity
  /-- Raised by ENC_ANCHOR and ENC_REL for a record of another anchorMode (R73); safe. -/
  | anchorMode
  /-- Raised by ENC_REL for a delta outside -128..127 (R72); safe. -/
  | delta
  /-- Raised by UPLOAD_PATTERN for a block that is not 256 bytes (R104); safe. -/
  | blockLength
  /-- Raised by UPLOAD_PALETTE for a bank shorter than the clamped length (R106); safe. -/
  | bankTooShort
  /-- Raised by REG_WRITE and REG_READ when no register has been selected since reset (R101, R102, R118); safe. -/
  | regSelUnspecified
  /-- Raised by step for an external write to a port that takes none, P_LINE (R33); safe. -/
  | portNotWritable
deriving DecidableEq, Repr

/-- `N_SPRITES`: the size of the sprite register file (R13). -/
def State.nSprites (s : State) : Nat := s.engine.sprites.length

/-- What every meaning answers. -/
abbrev Result := Host.Outcome State Fault Refusal

/-- The state right after reset (R127): every sprite unwritten, phase 0, seq IDLE, the trace empty, and everything behind
the ports unspecified (constants of Config without a body; log entries 2 and 3). The parameters are the defaults of rule R6, and
the environment has presented nothing (log entries 1 and 4). -/
def State.reset : State where
  cfg := Params.default
  engine := {
    sprites := List.replicate Config.nSpritesDefault none
    phase := 0#4
    seq := .idle
    loop := .none }
  port := {
    attrSlot := Config.resetAttrSlot % Params.default.nAttrSlots
    attrByte := Config.resetAttrByte
    attr := []
    regSel := Config.resetRegSel
    regChosen := false
    patSlot := Config.resetPatSlot
    patPos := Config.resetPatPos
    pat := []
    palIndex := Config.resetPalIndex
    palHalf := Config.resetPalHalf
    pal := [] }
  trace := []
  env := {
    inputs := []
    line := []
    draws := []
    data := []
    taken := 0
    result := none
    loader := [] }

end Sys2Proof.Machine
end

