-- ==== Sys2Proof/Machine/Flags.lean ====
section
/-! DEFINITION. The one flag of the block, the mirror flag of a sprite (R16), and the comparisons inside HSTEP that write
it and leave nothing behind. -/

namespace Sys2Proof.Machine

/-- A velocity as a number (R15). -/
def Dir.toInt : Dir → Int
  | .minus => -1
  | .plus => 1

/-- The reversed velocity. -/
def Dir.flip : Dir → Dir
  | .minus => .plus
  | .plus => .minus

/-- `newx <- trunc_8(x + vx)` (R87). -/
def newX (sp : Sprite) : Byte := BitVec.ofInt 8 (sp.x.toNat + sp.vx.toInt)

/-- The right-wall test of HSTEP: `vx > 0 and newx < x` (R87). -/
def wrapsRight (sp : Sprite) : Bool := decide (sp.vx = .plus) && decide (newX sp < sp.x)

/-- The left-wall test of HSTEP: `vx < 0 and newx > x` (R87). -/
def wrapsLeft (sp : Sprite) : Bool := decide (sp.vx = .minus) && decide (sp.x < newX sp)

/-- The mirror flag after HSTEP: set by a bounce at the right wall, cleared by one at the left wall, else as it was
(R16, R87). -/
def mirrorAfter (sp : Sprite) : Bool :=
  if wrapsRight sp then true else if wrapsLeft sp then false else sp.mir

end Sys2Proof.Machine
end

