-- ==== Sys2Proof/Machine/Operands.lean ====
section
/-! DEFINITION. The operand forms: field assembly of a record from its operand (R54 to R65, R71, R72), the record of an
animated sprite (R90), and the conversions and checks of the other operands. -/

namespace Sys2Proof.Machine

/-! ## Field assembly (R56 to R62) -/

/-- The 9-bit X without bias: `x & 0x1FF` (R61). -/
def absX9 (r : SpriteRecord) : BitVec 9 := BitVec.ofNat 9 r.x

/-- The 9-bit X with bias: `(x + BIAS) & 0x1FF` (R61). -/
def extX9 (r : SpriteRecord) : BitVec 9 := BitVec.ofNat 9 (r.x + Config.bias)

/-- The 8-bit Y with bias: `(y + BIAS) & 0xFF`, the ninth bit dropped (R62). -/
def extY8 (r : SpriteRecord) : Byte := BitVec.ofNat 8 (r.y.toNat + Config.bias)

/-- `X9[7:0]` (R54). -/
def xLow (x9 : BitVec 9) : Byte := x9.extractLsb' 0 8

/-- `X9[8]` (R56). -/
def xHigh (x9 : BitVec 9) : Bool := x9.getLsbD 8

/-- `B2(r, xhi)` (R56): an eight-bit shift drops the palette bits that fall off (R63). -/
def b2Of (r : SpriteRecord) (xhi : Bool) : Byte :=
  (r.paletteOffset <<< 4) ||| bitAt xhi 0 ||| bitAt r.mirrorX 3 ||| bitAt r.mirrorY 2 ||| bitAt r.rotate90 1

/-- `B3(r, E)` (R57, R64). -/
def b3Of (r : SpriteRecord) (e : Bool) : Byte :=
  (r.patternSlot &&& 0x3F#8) ||| bitAt r.visible 7 ||| bitAt e 6

/-- `(xscale, yscale) == (0, 0)` (R65). -/
def unscaled (r : SpriteRecord) : Bool := decide (r.xscale = 0#2) && decide (r.yscale = 0#2)

/-- The scale byte (R58). -/
def b4Scale (r : SpriteRecord) : Byte := (r.xscale.setWidth 8 <<< 3) ||| (r.yscale.setWidth 8 <<< 1)

/-- The anchor byte (R59). -/
def b4Anchor (cfg : Params) (unified : Bool) : Byte := if unified then cfg.unifiedMarker else 0x00#8

/-- The relative marker (R60). -/
def b4Relative (patrel : Bool) : Byte := if patrel then Config.relMarkerPatRel else Config.relMarker

/-- The X-high bit of a relative record: bit 8 of the anchor's biased x, or, where the parameter says so, of the biased
delta (R80). -/
def relXhi (cfg : Params) (a : SpriteRecord) (dx : Int) : Bool :=
  match cfg.relXhiMode with
  | .anchor => (BitVec.ofNat 9 (a.x + Config.bias)).getLsbD 8
  | .delta => (BitVec.ofInt 10 dx + BitVec.ofNat 10 Config.bias).getLsbD 8

/-! ## The records the encoder operations emit (R77 to R80) -/

/-- ENC_ABS's record (R77). -/
def encAbsBytes (r : SpriteRecord) : List Byte :=
  [xLow (absX9 r), r.y, b2Of r (xHigh (absX9 r)), b3Of r false]

/-- ENC_EXT's record (R78). -/
def encExtBytes (r : SpriteRecord) : List Byte :=
  if unscaled r then [xLow (extX9 r), extY8 r, b2Of r (xHigh (extX9 r)), b3Of r false]
  else [xLow (extX9 r), extY8 r, b2Of r (xHigh (extX9 r)), b3Of r true, b4Scale r]

/-- ENC_ANCHOR's record (R79). -/
def encAnchorBytes (cfg : Params) (r : SpriteRecord) (unified : Bool) : List Byte :=
  [xLow (extX9 r), extY8 r, b2Of r (xHigh (extX9 r)), b3Of r true, b4Anchor cfg unified]

/-- ENC_REL's record (R80). -/
def encRelBytes (cfg : Params) (r a : SpriteRecord) (dx dy : Int) (patrel : Bool) : List Byte :=
  [BitVec.ofInt 8 dx, BitVec.ofInt 8 dy, b2Of r (relXhi cfg a dx), b3Of r true, b4Relative patrel]

/-- The bytes of a record given field by field, the rows REC4, REC5S, REC5A and REC5R of the opcode table (R53). -/
def rec4Bytes (h : RecHead) : List Byte := packHead h false

def rec5sBytes (h : RecHead) (a b : BitVec 2) : List Byte := packHead h true ++ [scaleByte a b]

def rec5aBytes (h : RecHead) (u : Bool) : List Byte := packHead h true ++ [anchorByte u]

def rec5rBytes (h : RecHead) (t : Bool) : List Byte := packHead h true ++ [relativeByte t]

/-! ## Animated sprites (R85, R90) -/

/-- `velocity_draw()`: a raw 0 becomes +1 (R85). -/
def velocityOf : RawDraw → Dir
  | .minus => .minus
  | .zero => .plus
  | .plus => .plus

/-- A velocity operand, where it is one (R83). -/
def dirOf (v : Int) : Option Dir := if v = 1 then some .plus else if v = -1 then some .minus else none

/-- `PATTERN_SET[k]` (R6); an index past the table, which no reachable state holds (R15), gives slot 0 (log entry 22). -/
def patternSlotOf (cfg : Params) (k : Nat) : Byte := cfg.patternSet.getD k 0x00#8

/-- `anim_record(i)` (R90). -/
def animRecord (cfg : Params) (sp : Sprite) : SpriteRecord where
  x := sp.x.toNat
  y := sp.y
  patternSlot := patternSlotOf cfg sp.pat
  paletteOffset := cfg.animPalette
  mirrorX := sp.mir
  mirrorY := false
  rotate90 := false
  visible := true
  xscale := 0#2
  yscale := 0#2
  anchorMode := .standalone

/-! ## Operands of the adjacent operations (R103 to R107) -/

/-- A delta of a relative record is representable, an int8 (R72). -/
def deltaInRange (d : Int) : Bool := decide (-128 ≤ d) && decide (d ≤ 127)

/-- `slot & 0x3F` (R103). -/
def maskSlot (slot : Byte) : Byte := slot &&& 0x3F#8

/-- `count' <- min(count, max(0, 64 - startSlot))` (R105). -/
def clampCount (startSlot count : Nat) : Nat := min count (Config.nPatternSlots - startSlot)

/-- `length' <- min(length, max(0, 256 - paletteIndex))` (R106). -/
def clampLength (paletteIndex length : Nat) : Nat := min length (Config.paletteEntries - paletteIndex)

/-- The two bytes of a palette entry, least significant first (R39, R106). -/
def entryBytes (e : Entry) : List Byte := [e.extractLsb' 0 8, e.extractLsb' 8 8]

/-- `entries(c)[e] = (c[2e+1] << 8) | c[2e]`: little-endian pairs (R107). -/
def entriesOf : List Byte → List Entry
  | lo :: hi :: rest => ((hi.setWidth 16 <<< 8) ||| lo.setWidth 16) :: entriesOf rest
  | [_] => []
  | [] => []

end Sys2Proof.Machine
end

