-- ==== Sys2Proof/Machine/Ops.lean ====
section
/-! DEFINITION. The shared operations: memory behind the ports, the port reactions (R34 to R36, R49 to R51), port reads
(R37), sprite register access (R13, R14), and the pieces the meanings are built from.

TAKING AN EXCEPTION and returning from one: there is no such operation here because the block has none (R111, R113,
R117, R119). No state is saved, no mode changes, nothing is vectored; an abnormal condition is masked, clamped or returns
without effect inside the operation it belongs to (R114). -/

namespace Sys2Proof.Machine

/-! ## Memory -/

/-- The byte written to an address since reset, if one has been. -/
def Memory.written : Memory → Nat → Option Byte
  | [], _ => none
  | (b, w) :: m, a => if a = b then some w else Memory.written m a

/-- The byte at an address of a store: the one written there, else what an unlisted address reads as. -/
def Memory.read (b : Bank) (m : Memory) (a : Nat) : Byte := (m.written a).getD (Memory.unlisted b a)

/-- Writing one byte, keeping the addresses strictly rising. -/
def Memory.write : Memory → Nat → Byte → Memory
  | [], a, v => [(a, v)]
  | (b, w) :: m, a, v =>
    if a < b then (a, v) :: (b, w) :: m
    else if a = b then (a, v) :: m
    else (b, w) :: Memory.write m a v

/-- Where `ATTR[s][k]` stands: five bytes a slot (R33). -/
def attrAddr (slot : Nat) (k : Fin 5) : Nat := 5 * slot + k.val

/-- Where `PAT[p][n]` stands: 256 bytes a slot (R33). -/
def patAddr (p : BitVec 6) (n : Byte) : Nat := 256 * p.toNat + n.toNat

/-- Where a half of `PAL[e]` stands (R33). -/
def palAddr (e : Byte) (high : Bool) : Nat := 2 * e.toNat + high.toNat

/-- `ATTR`, by address. -/
def Coproc.readAttr (c : Coproc) (a : Nat) : Byte := c.attr.read .attr a

/-- `PAT`, by address. -/
def Coproc.readPat (c : Coproc) (a : Nat) : Byte := c.pat.read .pat a

/-- `PAL`, by address. -/
def Coproc.readPal (c : Coproc) (a : Nat) : Byte := c.pal.read .pal a

/-! ## Port reactions -/

/-- Where the attribute port's cursor goes after a byte: through bytes 0 to 3, on to the fifth when the fourth has E
set, else to byte 0 of the next slot (R36). -/
def nextCursor (nAttrSlots : Nat) (slot : Nat) (k : Fin 5) (v : Byte) : Nat × Fin 5 :=
  match k with
  | 0 => (slot, 1)
  | 1 => (slot, 2)
  | 2 => (slot, 3)
  | 3 => if eBit v then (slot, 4) else ((slot + 1) % nAttrSlots, 0)
  | 4 => ((slot + 1) % nAttrSlots, 0)

/-- The addresses a run of bytes to `P_ATTR` is stored to, in order (R36). -/
def attrAddrs (nAttrSlots : Nat) : Nat → Fin 5 → List Byte → List Nat
  | _, _, [] => []
  | slot, k, v :: vs =>
    attrAddr slot k :: attrAddrs nAttrSlots (nextCursor nAttrSlots slot k v).1 (nextCursor nAttrSlots slot k v).2 vs

/-- Reaction of `P_SLOT` (R35). -/
def reactSlot (cfg : Params) (v : Byte) (c : Coproc) : Coproc :=
  { c with attrSlot := v.toNat % cfg.nAttrSlots, attrByte := 0 }

/-- Reaction of `P_ATTR` (R36). -/
def reactAttr (cfg : Params) (v : Byte) (c : Coproc) : Coproc :=
  { c with
    attr := c.attr.write (attrAddr c.attrSlot c.attrByte) v
    attrSlot := (nextCursor cfg.nAttrSlots c.attrSlot c.attrByte v).1
    attrByte := (nextCursor cfg.nAttrSlots c.attrSlot c.attrByte v).2 }

/-- Reaction of `P_REGSEL` (R49). -/
def reactRegSel (v : Byte) (c : Coproc) : Coproc := { c with regSel := v, regChosen := true }

/-- Reaction of a data write to REG_PAT_SLOT (R49). -/
def reactPatSlot (v : Byte) (c : Coproc) : Coproc := { c with patSlot := v.setWidth 6, patPos := 0 }

/-- Reaction of a data write to REG_PAL_INDEX (R49). -/
def reactPalIndex (v : Byte) (c : Coproc) : Coproc := { c with palIndex := v, palHalf := false }

/-- Reaction of a palette data write (R51). -/
def reactPalData (v : Byte) (c : Coproc) : Coproc :=
  { c with
    pal := c.pal.write (palAddr c.palIndex c.palHalf) v
    palIndex := if c.palHalf then c.palIndex + 1 else c.palIndex
    palHalf := !c.palHalf }

/-- Reaction of `P_REGDATA`: each of the three register ids has its own, in the order of rule R49; any other id changes
nothing (log entry 23). -/
def reactRegData (cfg : Params) (v : Byte) (c : Coproc) : Coproc :=
  let c1 := if c.regSel = cfg.regPatSlot then reactPatSlot v c else c
  let c2 := if c.regSel = cfg.regPalIndex then reactPalIndex v c1 else c1
  if c.regSel = cfg.regPalData then reactPalData v c2 else c2

/-- Reaction of `P_PATTERN` (R50). -/
def reactPattern (v : Byte) (c : Coproc) : Coproc :=
  { c with
    pat := c.pat.write (patAddr c.patSlot c.patPos) v
    patPos := c.patPos + 1
    patSlot := if c.patPos = 0xFF#8 then c.patSlot + 1 else c.patSlot }

/-- The reaction of each port. `P_LINE` is read only (R33): no operation writes it. -/
def react (cfg : Params) (p : Port) (v : Byte) (c : Coproc) : Coproc :=
  match p with
  | .slot => reactSlot cfg v c
  | .attr => reactAttr cfg v c
  | .line => c
  | .regSel => reactRegSel v c
  | .regData => reactRegData cfg v c
  | .pattern => reactPattern v c

/-! ## The trace and the port primitives -/

/-- Appending one event to the trace (R27). -/
def State.record (s : State) (e : Event) : State := { s with trace := s.trace ++ [e] }

/-- `PortWrite(P, v)`: the event, then the reaction (R34). -/
def portWrite (s : State) (p : Port) (v : Byte) : State :=
  { s.record (.w p v) with port := react s.cfg p v s.port }

/-- Several writes to one port, in order, nothing in between. -/
def portWrites (s : State) (p : Port) (vs : List Byte) : State := vs.foldl (fun t v => portWrite t p v) s

/-- `emit([b0..bn])` (R9). -/
def emit (s : State) (bytes : List Byte) : State := portWrites s .attr bytes

/-- The next scanline sample: the environment's, else a free value, as LINE_W bits (R37). -/
def State.lineValue (s : State) : Nat :=
  match s.env.line with
  | l :: _ => l % 2 ^ s.cfg.lineW
  | [] => Config.freeLine s.env.taken % 2 ^ s.cfg.lineW

/-- The environment after it has supplied a sample. -/
def Env.dropLine (e : Env) : Env :=
  match e.line with
  | _ :: ls => { e with line := ls }
  | [] => { e with taken := e.taken + 1 }

/-- `PortRead(P_LINE)`: the state after the read, whose value is `lineValue` (R37). -/
def State.readLine (s : State) : State :=
  { s.record (.r .line s.lineValue) with env := s.env.dropLine }

/-- The byte the next `PortRead(P_REGDATA)` returns: the environment's, else a free value (R37, R102). -/
def State.dataValue (s : State) : Byte :=
  match s.env.data with
  | v :: _ => v
  | [] => Config.freeData s.env.taken

/-- The environment after it has supplied a data byte. -/
def Env.dropData (e : Env) : Env :=
  match e.data with
  | _ :: vs => { e with data := vs }
  | [] => { e with taken := e.taken + 1 }

/-- `PortRead(P_REGDATA)`, its byte returned to whoever commanded it (R102). -/
def State.readData (s : State) : State :=
  { s.record (.r .regData s.dataValue.toNat) with env := { s.env.dropData with result := some s.dataValue } }

/-- An external writer's port write (R41; log entry 8): the port's own event and reaction, whatever state the port is in;
P_LINE takes no write (R33). -/
def externalWrite (s : State) (p : Port) (v : Byte) : Result :=
  match p with
  | .line => .refused .portNotWritable
  | .regData => .next (portWrite s .regData v)
  | .slot => .next (portWrite s .slot v)
  | .attr => .next (portWrite s .attr v)
  | .regSel => .next (portWrite s .regSel v)
  | .pattern => .next (portWrite s .pattern v)

/-! ## Sprite registers -/

/-- `S[i]`, where it is written (R14). -/
def State.sprite (s : State) (i : Nat) : Option Sprite := (s.engine.sprites[i]?).join

/-- No sprite register is unwritten (R14). -/
def State.allWritten (s : State) : Bool := s.engine.sprites.all Option.isSome

/-- Replacing the sprite register file. -/
def State.setSprites (s : State) (sprites : List (Option Sprite)) : State :=
  { s with engine := { s.engine with sprites := sprites } }

/-- Writing `S[i]`. -/
def State.setSprite (s : State) (i : Nat) (sp : Sprite) : State := s.setSprites (s.engine.sprites.set i (some sp))

/-- Writing the phase counter. -/
def State.setPhase (s : State) (phase : BitVec 4) : State := { s with engine := { s.engine with phase := phase } }

/-- Moving the sequencer, `seq <- p` (R9). -/
def State.setSeq (s : State) (seq : Seq) : State := { s with engine := { s.engine with seq := seq } }

/-- Naming the operation in progress. -/
def State.setLoop (s : State) (loop : Loop) : State := { s with engine := { s.engine with loop := loop } }

/-- An operation on one written sprite: refused when there is no such sprite, or it is unwritten (R14). -/
def onSprite (s : State) (i : Nat) (f : Sprite → Sprite) : Result :=
  match s.engine.sprites[i]? with
  | none => .refused .spriteIndex
  | some none => .refused .unwrittenSprite
  | some (some sp) => .next (s.setSprite i (f sp))

/-- An operation that ranges over all sprites: refused when any is unwritten (R14). -/
def onAllWritten (s : State) (f : State → State) : Result :=
  if s.allWritten then .next (f s) else .refused .unwrittenSprite

/-! ## Physics (R86 to R89) -/

/-- HSTEP on one sprite (R87). -/
def hstepSprite (sp : Sprite) : Sprite :=
  if wrapsRight sp then { sp with x := BitVec.ofNat 8 Config.xMax, vx := .minus, mir := mirrorAfter sp }
  else if wrapsLeft sp then { sp with x := 0x00#8, vx := .plus, mir := mirrorAfter sp }
  else { sp with x := newX sp, mir := mirrorAfter sp }

/-- `newy`, over the integers (R88). -/
def newY (sp : Sprite) : Int := sp.y.toNat + sp.vy.toInt

/-- VSTEP on one sprite (R88). -/
def vstepSprite (sp : Sprite) : Sprite :=
  if (Config.yMax : Int) < newY sp then { sp with y := BitVec.ofNat 8 Config.yMax, vy := sp.vy.flip }
  else if newY sp < (Config.yMin : Int) then { sp with y := BitVec.ofNat 8 Config.yMin, vy := sp.vy.flip }
  else { sp with y := BitVec.ofInt 8 (newY sp) }

/-- The pattern index advanced by one, modulo PATTERN_SET_SIZE (R86). -/
def advancePattern (cfg : Params) (sp : Sprite) : Sprite := { sp with pat := (sp.pat + 1) % cfg.patternSet.length }

/-- PATCYCLE: the phase, and on its return to 0 every sprite's pattern index (R86). -/
def patCycle (s : State) : State :=
  if s.engine.phase + 1 = 0#4 then
    (s.setPhase (s.engine.phase + 1)).setSprites (s.engine.sprites.map (Option.map (advancePattern s.cfg)))
  else s.setPhase (s.engine.phase + 1)

/-- The horizontal and vertical step of every sprite, ascending (R89). -/
def stepSprites (s : State) : State :=
  s.setSprites (s.engine.sprites.map (Option.map (fun sp => vstepSprite (hstepSprite sp))))

/-- TICK: PATCYCLE, then HSTEP i and VSTEP i for every i (R89). -/
def tickAll (s : State) : State := stepSprites (patCycle s)

/-! ## Spawning (R83 to R85) -/

/-- A freshly spawned sprite (R83). -/
def spawned (x y : Byte) (vx vy : Dir) : Sprite where
  x := x
  y := y
  vx := vx
  vy := vy
  pat := 0
  mir := false

/-- The next velocity draw: the environment's, else a free value (R85). -/
def Env.drawValue (e : Env) : RawDraw :=
  match e.draws with
  | d :: _ => d
  | [] => Config.freeDraw e.taken

/-- The environment after it has supplied a draw. -/
def Env.dropDraw (e : Env) : Env :=
  match e.draws with
  | _ :: ds => { e with draws := ds }
  | [] => { e with taken := e.taken + 1 }

/-- Where INIT spawns sprite i: `X_STEP*i + X_START` (R84). -/
def spawnX (cfg : Params) (i : Nat) : Byte := BitVec.ofNat 8 (cfg.xStep * i + cfg.xStart)

/-- INIT's sprites from index `i` on, `n` of them, with the environment left after two draws each, vx before vy (R84). -/
def initSprites (cfg : Params) : Nat → Nat → Env → List (Option Sprite) × Env
  | 0, _, e => ([], e)
  | n + 1, i, e =>
    let rest := initSprites cfg n (i + 1) e.dropDraw.dropDraw
    (some (spawned (spawnX cfg i) (BitVec.ofNat 8 cfg.yStart) (velocityOf e.drawValue) (velocityOf e.dropDraw.drawValue))
      :: rest.1, rest.2)

/-- INIT (R84). -/
def initAll (s : State) : State :=
  { (s.setPhase 0#4).setSprites (initSprites s.cfg s.nSprites 0 s.env).1 with
    env := (initSprites s.cfg s.nSprites 0 s.env).2 }

/-! ## Emission (R91) -/

/-- Re-encoding one sprite in the extended form; an unwritten one is passed over, which no caller lets happen. -/
def emitSprite (s : State) : Option Sprite → State
  | some sp => emit s (encExtBytes (animRecord s.cfg sp))
  | none => s

/-- EMIT_ALL: the base slot selected once, then every sprite, ascending (R91). -/
def emitSprites (s : State) : State :=
  s.engine.sprites.foldl emitSprite (portWrite s .slot s.cfg.attrBase)

/-! ## The sequencer (R18, R92 to R94) -/

/-- The end of a frame wait: WAIT_FRAME is over; FRAME leaves the sequencer at UPDATE; RUN goes on to its next frame, or
to HALT when its budget is used up (R92, R93, R94). -/
def frameDone (s : State) : State :=
  match s.engine.loop with
  | .none => s
  | .wait => s.setLoop .none
  | .frame => (s.setSeq .update).setLoop .none
  | .run .infinite => s.setSeq .update
  | .run (.finite 0) => (s.setSeq .halt).setLoop .none
  | .run (.finite 1) => (s.setSeq .halt).setLoop .none
  | .run (.finite (n + 2)) => (s.setSeq .update).setLoop (.run (.finite (n + 1)))

/-- One poll of the first wait phase: on to the second once a sample differs from SYNC_LINE (R92). -/
def pollLeave (s : State) : State :=
  if s.lineValue = Config.syncLine then s.readLine else s.readLine.setSeq .waitEnter

/-- One poll of the second wait phase: the wait ends once a sample equals SYNC_LINE (R92). -/
def pollEnter (s : State) : State :=
  if s.lineValue = Config.syncLine then frameDone s.readLine else s.readLine

/-- What the operation in progress does next, by the sequencer (R18, R93): the tick, the emission, or one poll. IDLE and
HALT mean that no loop runs. -/
def sequencerStep (s : State) : Result :=
  match s.engine.seq with
  | .update => onAllWritten s (fun t => (tickAll t).setSeq .emit)
  | .emit => onAllWritten s (fun t => (emitSprites t).setSeq .waitLeave)
  | .waitLeave => .next (pollLeave s)
  | .waitEnter => .next (pollEnter s)
  | .idle => .next (s.setLoop .none)
  | .halt => .next (s.setLoop .none)

/-! ## The adjacent operations' shared parts (R103 to R108) -/

/-- One event at the loader interface (R108). -/
def State.loaderEvent (s : State) (e : LoaderEvent) : State := { s with env := { s.env with loader := s.env.loader ++ [e] } }

/-- REG_SELECT then REG_WRITE: one indirect register access (R100, R101). -/
def regAccess (s : State) (id v : Byte) : State := portWrite (portWrite s .regSel id) .regData v

/-- SELECT_PATTERN_SLOT (R103). -/
def selectPattern (s : State) (slot : Byte) : State := regAccess s s.cfg.regPatSlot (maskSlot slot)

/-- The transfers of a pattern series: up to `count'` blocks, aborted at the first failed read (R105). -/
def uploadBlocks : Nat → List (Option Block) → State → State
  | 0, _, s => s
  | _ + 1, [], s => s.loaderEvent (.read false)
  | _ + 1, none :: _, s => s.loaderEvent (.read false)
  | n + 1, some b :: rest, s => uploadBlocks n rest (portWrites (s.loaderEvent (.read true)) .pattern b.toList)

/-- The port traffic of UPLOAD_PALETTE for the entries it sends: index, data register, then the byte pairs (R106). -/
def sendPalette (s : State) (paletteIndex : Nat) (entries : List Entry) : State :=
  portWrites (portWrite (regAccess s s.cfg.regPalIndex (BitVec.ofNat 8 paletteIndex)) .regSel s.cfg.regPalData) .regData
    (entries.flatMap entryBytes)

/-- The two halves of a palette load that are still to come, each a read and, if it succeeds, an upload of 128 entries;
the source is closed on every path (R107). -/
def loadHalves : List Nat → List (Option Block) → State → State
  | [], _, s => s.loaderEvent .closed
  | _ :: _, [], s => (s.loaderEvent (.read false)).loaderEvent .closed
  | _ :: _, none :: _, s => (s.loaderEvent (.read false)).loaderEvent .closed
  | at_ :: more, some c :: rest, s =>
    loadHalves more rest (sendPalette (s.loaderEvent (.read true)) at_ (entriesOf c.toList))

/-! ## Fetching -/

/-- What the command interface holds next. -/
inductive Fetched where
  /-- Nothing is presented (R128). -/
  | nothing
  /-- An instruction, and the state once it is taken from the interface. -/
  | instr (i : Instr) (s : State)
  /-- A request that is no instruction. -/
  | rejected (e : DecodeError)
  /-- An external writer's port write (R41). -/
  | external (p : Port) (v : Byte) (s : State)

/-- The state once what is presented first has been taken. -/
def State.takeInput (s : State) : State := { s with env := { s.env with inputs := s.env.inputs.tail } }

/-- Taking the next thing presented, and decoding it (log entry 4). -/
def fetch (s : State) : Fetched :=
  match s.env.inputs with
  | [] => .nothing
  | .portWrite p v :: _ => .external p v s.takeInput
  | .request q :: _ =>
    match decode q with
    | .ok i => .instr i s.takeInput
    | .error e => .rejected e

/-- The configuration is one of the hardware's (R7, R118). -/
def State.cfgValid (s : State) : Bool := s.cfg.valid s.nSprites

end Sys2Proof.Machine
end

