-- ==== Sys2Proof/Machine/Animation.lean ====
section
/-! DEFINITION. The animation engine operations (R83 to R94). -/

namespace Sys2Proof.Machine

/-- `SPAWN i, x, y, vx, vy` (R83): i >= N_SPRITES, y > Y_MAX and a velocity outside {-1,+1} are refused. -/
def execSpawn (i : Nat) (x y : Byte) (vx vy : Int) (s : State) : Result :=
  if s.nSprites ≤ i then .refused .spriteIndex
  else if Config.yMax < y.toNat then .refused .spawnY
  else
    match dirOf vx, dirOf vy with
    | some dx, some dy => .next (s.setSprite i (spawned x y dx dy))
    | none, _ => .refused .velocity
    | some _, none => .refused .velocity

/-- `INIT` (R84). -/
def execInit (s : State) : Result := .next (initAll s)

/-- `PATCYCLE` (R86). -/
def execPatcycle (s : State) : Result := onAllWritten s patCycle

/-- `HSTEP i` (R87). -/
def execHstep (i : Nat) (s : State) : Result := onSprite s i hstepSprite

/-- `VSTEP i` (R88). -/
def execVstep (i : Nat) (s : State) : Result := onSprite s i vstepSprite

/-- `TICK` (R89). -/
def execTick (s : State) : Result := onAllWritten s tickAll

/-- `EMIT_ALL` (R91). -/
def execEmitAll (s : State) : Result := onAllWritten s emitSprites

/-- `WAIT_FRAME` (R92): the sequencer goes to WAIT_LEAVE and polls for the first time; it polls on, one read a step,
until the wait ends (log entry 5). -/
def execWaitFrame (s : State) : Result := sequencerStep ((s.setLoop .wait).setSeq .waitLeave)

/-- `FRAME` (R93): the sequencer goes to UPDATE and ticks; the emission and the wait follow, a phase or a poll a step
(log entry 5). -/
def execFrame (s : State) : Result := sequencerStep ((s.setLoop .frame).setSeq .update)

/-- `RUN n` (R94): refused, whatever n, when a sprite is unwritten (R14; log entry 17). The first frame begins as FRAME
does, and n - 1 more follow; `RUN 0` changes nothing but seq. -/
def execRun (n : Budget) (s : State) : Result :=
  match n with
  | .finite 0 => onAllWritten s (fun t => t.setSeq .halt)
  | .finite (k + 1) => sequencerStep ((s.setLoop (.run (.finite (k + 1)))).setSeq .update)
  | .infinite => sequencerStep ((s.setLoop (.run .infinite)).setSeq .update)

end Sys2Proof.Machine
end

