-- ==== Sys2Proof/Machine/Encoder.lean ====
section
/-! DEFINITION. The encoder operations (R76 to R82), and the four record formats presented whole at the attribute port
(R53). -/

namespace Sys2Proof.Machine

/-- `SELECT_SLOT s` (R76). -/
def execSelectSlot (v : Byte) (s : State) : Result := .next (portWrite s .slot v)

/-- `ENC_ABS r` (R77). -/
def execEncAbs (r : SpriteRecord) (s : State) : Result := .next (emit s (encAbsBytes r))

/-- `ENC_EXT r` (R78). -/
def execEncExt (r : SpriteRecord) (s : State) : Result := .next (emit s (encExtBytes r))

/-- `ENC_ANCHOR r, unified` (R79): any anchorMode but ExtendedAnchor is refused (R73). -/
def execEncAnchor (r : SpriteRecord) (unified : Bool) (s : State) : Result :=
  match r.anchorMode with
  | .extendedAnchor => .next (emit s (encAnchorBytes s.cfg r unified))
  | .standalone => .refused .anchorMode
  | .relativeToAnchor _ _ => .refused .anchorMode

/-- `ENC_REL r, a, patrel` (R80): any anchorMode but RelativeToAnchor is refused (R73), and so is a delta outside
-128..127 (R72). -/
def execEncRel (r a : SpriteRecord) (patrel : Bool) (s : State) : Result :=
  match r.anchorMode with
  | .relativeToAnchor dx dy =>
    if deltaInRange dx && deltaInRange dy then .next (emit s (encRelBytes s.cfg r a dx dy patrel)) else .refused .delta
  | .standalone => .refused .anchorMode
  | .extendedAnchor => .refused .anchorMode

/-- A REC4 record presented at the attribute port: its bytes written in order (R9, R36, R53; log entry 7). -/
def execRec4 (h : RecHead) (s : State) : Result := .next (emit s (rec4Bytes h))

/-- A REC5S record presented at the attribute port (R53, R58). -/
def execRec5s (h : RecHead) (a b : BitVec 2) (s : State) : Result := .next (emit s (rec5sBytes h a b))

/-- A REC5A record presented at the attribute port (R53, R59). -/
def execRec5a (h : RecHead) (u : Bool) (s : State) : Result := .next (emit s (rec5aBytes h u))

/-- A REC5R record presented at the attribute port (R53, R60). -/
def execRec5r (h : RecHead) (t : Bool) (s : State) : Result := .next (emit s (rec5rBytes h t))

end Sys2Proof.Machine
end

