-- ==== Sys2Proof/Machine/Upload.lean ====
section
/-! DEFINITION. The adjacent operations: the indirect register port, pattern and palette upload (R100 to R107). -/

namespace Sys2Proof.Machine

/-- `REG_SELECT id` (R100). -/
def execRegSelect (id : Byte) (s : State) : Result := .next (portWrite s .regSel id)

/-- `REG_WRITE v` (R101): refused while no register has been selected. -/
def execRegWrite (v : Byte) (s : State) : Result :=
  if s.port.regChosen then .next (portWrite s .regData v) else .refused .regSelUnspecified

/-- `REG_READ` (R102): refused while no register has been selected. -/
def execRegRead (s : State) : Result :=
  if s.port.regChosen then .next s.readData else .refused .regSelUnspecified

/-- `SELECT_PATTERN_SLOT slot` (R103). -/
def execSelectPatternSlot (slot : Byte) (s : State) : Result := .next (selectPattern s slot)

/-- `UPLOAD_PATTERN block` (R104): a block that is not 256 bytes is refused. -/
def execUploadPattern (block : List Byte) (s : State) : Result :=
  if block.length = Config.patternBlock then .next (portWrites s .pattern block) else .refused .blockLength

/-- `UPLOAD_PATTERN_SERIES blocks, startSlot, count` (R105): a source that does not open has no effect (R108); a count
clamped to 0 touches no port; the source is closed on every path. -/
def execUploadPatternSeries (blocks : Source) (startSlot count : Nat) (s : State) : Result :=
  if !blocks.opens then .next (s.loaderEvent .openFailed)
  else if clampCount startSlot count = 0 then .next ((s.loaderEvent .opened).loaderEvent .closed)
  else
    .next ((uploadBlocks (clampCount startSlot count) blocks.reads
      (selectPattern (s.loaderEvent .opened) (BitVec.ofNat 8 startSlot))).loaderEvent .closed)

/-- `UPLOAD_PALETTE bank, paletteIndex, length` (R106): an absent bank, a zero length and a clamp to 0 return without
effect; a bank shorter than the clamped length is refused. -/
def execUploadPalette (bank : Option (List Entry)) (paletteIndex length : Nat) (s : State) : Result :=
  match bank with
  | none => .next s
  | some b =>
    if clampLength paletteIndex length = 0 then .next s
    else if b.length < clampLength paletteIndex length then .refused .bankTooShort
    else .next (sendPalette s paletteIndex (b.take (clampLength paletteIndex length)))

/-- `LOAD_PALETTE_FROM_SOURCE source` (R107): a source that does not open has no effect (R108). -/
def execLoadPaletteFromSource (source : Source) (s : State) : Result :=
  if !source.opens then .next (s.loaderEvent .openFailed)
  else .next (loadHalves [0, Config.paletteHalf] source.reads (s.loaderEvent .opened))

end Sys2Proof.Machine
end

