-- ==== Sys2Proof/Machine/Dispatch.lean ====
section
/-! DEFINITION. One arm per instruction, each a direct call of its meaning. -/

namespace Sys2Proof.Machine

def exec (i : Instr) (s : State) : Host.Outcome State Fault Refusal :=
  match i with
  | .selectSlot v => Sys2Proof.Machine.execSelectSlot v s
  | .encAbs r => Sys2Proof.Machine.execEncAbs r s
  | .encExt r => Sys2Proof.Machine.execEncExt r s
  | .encAnchor r unified => Sys2Proof.Machine.execEncAnchor r unified s
  | .encRel r a patrel => Sys2Proof.Machine.execEncRel r a patrel s
  | .spawn k x y vx vy => Sys2Proof.Machine.execSpawn k x y vx vy s
  | .init => Sys2Proof.Machine.execInit s
  | .patcycle => Sys2Proof.Machine.execPatcycle s
  | .hstep k => Sys2Proof.Machine.execHstep k s
  | .vstep k => Sys2Proof.Machine.execVstep k s
  | .tick => Sys2Proof.Machine.execTick s
  | .emitAll => Sys2Proof.Machine.execEmitAll s
  | .waitFrame => Sys2Proof.Machine.execWaitFrame s
  | .frame => Sys2Proof.Machine.execFrame s
  | .run n => Sys2Proof.Machine.execRun n s
  | .regSelect id => Sys2Proof.Machine.execRegSelect id s
  | .regWrite v => Sys2Proof.Machine.execRegWrite v s
  | .regRead => Sys2Proof.Machine.execRegRead s
  | .selectPatternSlot slot => Sys2Proof.Machine.execSelectPatternSlot slot s
  | .uploadPattern block => Sys2Proof.Machine.execUploadPattern block s
  | .uploadPatternSeries blocks startSlot count => Sys2Proof.Machine.execUploadPatternSeries blocks startSlot count s
  | .uploadPalette bank paletteIndex length => Sys2Proof.Machine.execUploadPalette bank paletteIndex length s
  | .loadPaletteFromSource source => Sys2Proof.Machine.execLoadPaletteFromSource source s
  | .rec4 h => Sys2Proof.Machine.execRec4 h s
  | .rec5s h a b => Sys2Proof.Machine.execRec5s h a b s
  | .rec5a h u => Sys2Proof.Machine.execRec5a h u s
  | .rec5r h t => Sys2Proof.Machine.execRec5r h t s

end Sys2Proof.Machine
end

