-- ==== Sys2Proof/Machine/Step.lean ====
section
/-! DEFINITION. One step of the machine: the operation in progress goes on, or else the next thing presented is taken. -/

namespace Sys2Proof.Machine

/-- What is presented next, taken when no operation is in progress (R120, R128). -/
def fetchStep (s : State) : Host.Outcome State Fault Refusal :=
  match fetch s with
  | .nothing => .next s
  | .instr i t => exec i t
  | .rejected e => .refused (.undecodable e)
  | .external p v t => externalWrite t p v

/-- One step. A configuration that breaks rule R7 is refused (R118). While an operation is in progress nothing else is
taken (R120). -/
def step (s : State) : Host.Outcome State Fault Refusal :=
  if s.cfgValid then
    match s.engine.loop with
    | .none => fetchStep s
    | .wait => sequencerStep s
    | .frame => sequencerStep s
    | .run _ => sequencerStep s
  else .refused .badConfiguration

/-- The state in which the next step takes exactly the instruction of a table word: it stands first on the command
interface, and no operation is in progress (log entries 4 and 21). -/
def State.withFetchWord (s : State) (nbits w : Nat) : State :=
  { s.setLoop .none with env := { s.env with inputs := .request (tableRequest nbits w) :: s.env.inputs } }

end Sys2Proof.Machine
end

