-- ==== Sys2Proof/Safety.lean ====
section
/-! DEFINITION. What claims are stated in: well-formed sprites (R15), the machine's invariant, whole records in the trace
(R126, R131), and what an attribute slot shows (R69, R126). -/

namespace Sys2Proof.Machine

/-! ## Premises about open parameters -/

/-- The three register ids differ from one another; the spec leaves them open (R6, D32). -/
def idsDiffer (cfg : Params) : Prop :=
  cfg.regPatSlot ≠ cfg.regPalIndex ∧ cfg.regPatSlot ≠ cfg.regPalData ∧ cfg.regPalIndex ≠ cfg.regPalData

/-! ## Well-formed sprites (R15) -/

/-- A well-formed sprite (R15): the velocities and x are right by their types. -/
def Sprite.wf (cfg : Params) (sp : Sprite) : Prop := sp.y.toNat ≤ Config.yMax ∧ sp.pat < cfg.patternSet.length

/-- Every written sprite register is well-formed. -/
def State.spritesWf (s : State) : Prop := ∀ sp, some sp ∈ s.engine.sprites → sp.wf s.cfg

/-! ## Whole records in the trace (R126, R131, R135) -/

/-- Where a reader of the trace stands: no slot selected yet, at byte k of a record, or past a record that was cut short
or began before a slot select. -/
inductive TracePos where
  | unselected
  | byte (k : Fin 5)
  | broken
deriving DecidableEq, Repr

/-- The record position after a byte (R67). -/
def nextByte (k : Fin 5) (v : Byte) : Fin 5 :=
  match k with
  | 0 => 1
  | 1 => 2
  | 2 => 3
  | 3 => if eBit v then 4 else 0
  | 4 => 0

/-- Reading one event: a slot select is right only between records (R131), a record byte only after a slot select
(R135); no other event matters. -/
def TracePos.after (p : TracePos) : Event → TracePos
  | .w .slot _ =>
    match p with
    | .unselected => .byte 0
    | .byte k => if k = 0 then .byte 0 else .broken
    | .broken => .broken
  | .w .attr v =>
    match p with
    | .unselected => .broken
    | .byte k => .byte (nextByte k v)
    | .broken => .broken
  | .w .line _ => p
  | .w .regSel _ => p
  | .w .regData _ => p
  | .w .pattern _ => p
  | .r _ _ => p

/-- Where a reader of a trace stands at its end. -/
def tracePos (T : List Event) : TracePos := T.foldl TracePos.after .unselected

/-- Every record in the trace is whole and follows a slot select, and no record is open (R126). -/
abbrev recordsWhole (T : List Event) : Prop := tracePos T = .byte 0

/-! ## The machine's invariant -/

/-- The sequencer's value agrees with the operation in progress (R18, R92 to R94), and an operation that ranges over the
sprites is in progress only when all are written (R14). -/
def State.seqLegal (s : State) : Prop :=
  match s.engine.loop with
  | .none => s.engine.seq ≠ .emit ∧ s.engine.seq ≠ .waitLeave
  | .wait => s.engine.seq = .waitLeave ∨ s.engine.seq = .waitEnter
  | .frame => s.allWritten = true ∧ s.engine.seq ≠ .idle ∧ s.engine.seq ≠ .halt
  | .run b => s.allWritten = true ∧ s.engine.seq ≠ .idle ∧ s.engine.seq ≠ .halt ∧ b ≠ .finite 0

/-- What every reachable state satisfies: the configuration is one of the hardware's (R7), the indexes of the coprocessor
are in range (R21), its stores keep their canonical form and hold nothing outside their address ranges (R33), every
written sprite is well-formed (R15), the sequencer is legal, and a reader of
the trace that stands at byte k of a record agrees with the hidden byte counter (R67). -/
structure State.Inv (s : State) : Prop where
  cfg : s.cfgValid = true
  slot : s.port.attrSlot < s.cfg.nAttrSlots
  attrWf : s.port.attr.wf
  attrRange : ∀ c ∈ s.port.attr, c.1 < 5 * s.cfg.nAttrSlots
  patWf : s.port.pat.wf
  patRange : ∀ c ∈ s.port.pat, c.1 < Config.nPatternSlots * Config.patternBlock
  palWf : s.port.pal.wf
  palRange : ∀ c ∈ s.port.pal, c.1 < 2 * Config.paletteEntries
  sprites : s.spritesWf
  seq : s.seqLegal
  cursor : ∀ k, tracePos s.trace = .byte k → s.port.attrByte = k

/-! ## What an attribute slot shows -/

/-- The fields of the record stored in a slot (R69), whatever bytes it holds (R23). -/
def State.viewSlot (s : State) (slot : Nat) : RecordView :=
  viewRecord (s.port.readAttr (attrAddr slot 0)) (s.port.readAttr (attrAddr slot 1)) (s.port.readAttr (attrAddr slot 2))
    (s.port.readAttr (attrAddr slot 3)) (s.port.readAttr (attrAddr slot 4))

/-- What the slot of an animated sprite should show (R90, R126): its position plus 32, its pattern slot, its mirror
flag, visible and unscaled. -/
def spriteView (cfg : Params) (sp : Sprite) : RecordView where
  x9 := BitVec.ofNat 9 (sp.x.toNat + 32)
  y8 := BitVec.ofNat 8 (sp.y.toNat + 32)
  paletteOffset := BitVec.ofNat 4 cfg.animPalette.toNat
  mirrorX := sp.mir
  mirrorY := false
  rotate90 := false
  visible := true
  e := false
  patternSlot := BitVec.ofNat 6 (patternSlotOf cfg sp.pat).toNat
  fifth := .absent

end Sys2Proof.Machine
end

