-- ==== Sys2Proof/Certificates/Slice0/Obligations.lean ====
section
/-! DEFINITION. The statements for the provers. Each docstring names the rule it formalises, and, where it rests on a
decision of the spec (D<n>) or on a choice of the model (log entry <n>), says so. -/

namespace Sys2Proof.Machine

/-! ## Words the statements use -/

/-- A flag as a number. -/
def flagNat (b : Bool) : Nat := b.toNat

/-- Byte 2 of rule R53 as a number: palette in 7:4, mirrorX 3, mirrorY 2, rotate90 1, X-high-bit 0. -/
def b2Nat (r : SpriteRecord) (xhi : Nat) : Nat :=
  16 * (r.paletteOffset.toNat % 16) + 8 * flagNat r.mirrorX + 4 * flagNat r.mirrorY + 2 * flagNat r.rotate90 + xhi

/-- Byte 3 of rule R53 as a number: visible in 7, E in 6, pattern slot in 5:0. -/
def b3Nat (r : SpriteRecord) (e : Nat) : Nat := 128 * flagNat r.visible + 64 * e + r.patternSlot.toNat % 64

/-- The record an instruction writes, for the instructions that write one whole record; none for a form that is refused
(R72, R73) and for every other instruction. -/
def recordOf (cfg : Params) : Instr → Option (List Byte)
  | .encAbs r => some (encAbsBytes r)
  | .encExt r => some (encExtBytes r)
  | .encAnchor r u => if r.anchorMode = .extendedAnchor then some (encAnchorBytes cfg r u) else none
  | .encRel r a p =>
    match r.anchorMode with
    | .relativeToAnchor dx dy =>
      if -128 ≤ dx ∧ dx ≤ 127 ∧ -128 ≤ dy ∧ dy ≤ 127 then some (encRelBytes cfg r a dx dy p) else none
    | .standalone => none
    | .extendedAnchor => none
  | .rec4 h => some (rec4Bytes h)
  | .rec5s h a b => some (rec5sBytes h a b)
  | .rec5a h u => some (rec5aBytes h u)
  | .rec5r h t => some (rec5rBytes h t)
  | _ => none

/-- Several operations commanded one after another (R70). -/
def execList : List Instr → State → Result
  | [], s => .next s
  | i :: is, s =>
    match exec i s with
    | .next t => execList is t
    | .fault f => .fault f
    | .refused r => .refused r

/-- The selectors rule R66 assigns. -/
def assignedSelectors : List Nat :=
  [0x00, 0x01, 0x02, 0x03, 0x04, 0x10, 0x11, 0x12, 0x13, 0x14, 0x15, 0x16, 0x17, 0x18, 0x19, 0x20, 0x21, 0x22, 0x23,
    0x24, 0x25, 0x26, 0x27]

/-- A run of samples after which a frame wait ends, and not before (R92): some on line 192, one off it, some more off
it, then one on it. All are LINE_W bits (R37). -/
def waitSamples (cfg : Params) (samples : List Nat) : Prop :=
  ∃ pre mid : List Nat, ∃ off : Nat,
    samples = pre ++ off :: mid ++ [192] ∧ (∀ l ∈ pre, l = 192) ∧ off ≠ 192 ∧ (∀ l ∈ mid, l ≠ 192) ∧
    ∀ l ∈ samples, l < 2 ^ cfg.lineW

/-- The state once a run of samples has been read from the environment: one read event each (R27, R92). -/
def State.afterReads (s : State) (samples : List Nat) (rest : List Nat) : State :=
  { s with trace := s.trace ++ samples.map (Event.r .line), env := { s.env with line := rest } }

/-- What a data write of v to the selected register leaves behind the ports (R49, R51): the pattern slot masked and its
position restarted, the palette index with the low half next, half an entry of the palette, or, for any other id, nothing
new. Where two of the open ids are equal nothing is said (log entry 23). -/
def dataWriteLeaves (s : State) (v : Byte) (c : Coproc) : Prop :=
  (s.port.regSel ≠ s.cfg.regPatSlot → s.port.regSel ≠ s.cfg.regPalIndex → s.port.regSel ≠ s.cfg.regPalData →
    c = s.port) ∧
  (idsDiffer s.cfg →
    (s.port.regSel = s.cfg.regPatSlot → c = { s.port with patSlot := BitVec.ofNat 6 (v.toNat % 64), patPos := 0#8 }) ∧
    (s.port.regSel = s.cfg.regPalIndex → c = { s.port with palIndex := v, palHalf := false }) ∧
    (s.port.regSel = s.cfg.regPalData → s.port.palHalf = false → c = { s.port with
      pal := s.port.pal.write (2 * s.port.palIndex.toNat) v, palHalf := true }) ∧
    (s.port.regSel = s.cfg.regPalData → s.port.palHalf = true → c = { s.port with
      pal := s.port.pal.write (2 * s.port.palIndex.toNat + 1) v
      palHalf := false, palIndex := s.port.palIndex + 1 }))

/-- How many events of a trace are slot selects, and how many are record bytes. -/
def slotSelects (T : List Event) : Nat := T.countP (fun e => match e with | .w .slot _ => true | _ => false)

def attrWrites (T : List Event) : Nat := T.countP (fun e => match e with | .w .attr _ => true | _ => false)

/-- The good reads before the first failure, at most `n` of them (R105). -/
def goodReads : Nat → List (Option Block) → List Block
  | 0, _ => []
  | _ + 1, [] => []
  | _ + 1, none :: _ => []
  | n + 1, some b :: rest => b :: goodReads n rest

end Sys2Proof.Machine

open Sys2Proof Sys2Proof.Machine

/-! ## Encoder operations -/

/-- SELECT_SLOT: one write to P_SLOT; the slot is the byte modulo N_ATTR_SLOTS and the hidden byte counter restarts;
nothing else changes, stored bytes among it (R76, R35; the modulo and the survival of a partial record are the spec's
decision D15, the one-write form D2). -/
def Obligations.SelectSlotResetsCursor : Prop :=
  ∀ (v : Byte) (s : State),
    exec (.selectSlot v) s = .next
      { s with
        trace := s.trace ++ [.w .slot v]
        port := { s.port with attrSlot := v.toNat % s.cfg.nAttrSlots, attrByte := 0 } }

/-- ENC_ABS completes for every record and writes exactly four bytes: x modulo 512 split low byte first, y, the flags
byte, the pattern byte with E clear; scale and anchorMode are not read (R77; flag positions D5, D6, unread fields D12,
x above 511 D34). -/
def Obligations.EncAbsWritesFourBytes : Prop :=
  ∀ (r : SpriteRecord) (s : State), ∃ b0 b2 b3 : Byte,
    exec (.encAbs r) s = .next (portWrites s .attr [b0, r.y, b2, b3]) ∧
    b0.toNat = r.x % 256 ∧ b2.toNat = b2Nat r (r.x % 512 / 256) ∧ b3.toNat = b3Nat r 0

/-- ENC_EXT completes for every record: x + 32 modulo 512, y + 32 modulo 256; four bytes with E clear when both scale
codes are 0, else five with E set and the scale byte (R78; D5, D6, D8, D12, D13, D34). -/
def Obligations.EncExtWritesBiasedRecord : Prop :=
  ∀ (r : SpriteRecord) (s : State), ∃ b0 b1 b2 b3 b4 : Byte,
    exec (.encExt r) s = .next (portWrites s .attr
      (if r.xscale = 0#2 ∧ r.yscale = 0#2 then [b0, b1, b2, b3] else [b0, b1, b2, b3, b4])) ∧
    b0.toNat = (r.x + 32) % 256 ∧ b1.toNat = (r.y.toNat + 32) % 256 ∧
    b2.toNat = b2Nat r ((r.x + 32) % 512 / 256) ∧
    b3.toNat = b3Nat r (if r.xscale = 0#2 ∧ r.yscale = 0#2 then 0 else 1) ∧
    b4.toNat = 8 * r.xscale.toNat + 2 * r.yscale.toNat

/-- ENC_ANCHOR completes for every record whose anchorMode is ExtendedAnchor: always five bytes, E set, the fifth the
unified marker or zero; scale is not read (R79; D5, D6, D8, D9, D12, D34). -/
def Obligations.EncAnchorWritesFiveBytes : Prop :=
  ∀ (r : SpriteRecord) (unified : Bool) (s : State), r.anchorMode = .extendedAnchor → ∃ b0 b1 b2 b3 : Byte,
    exec (.encAnchor r unified) s = .next (portWrites s .attr
      [b0, b1, b2, b3, if unified then s.cfg.unifiedMarker else 0x00#8]) ∧
    b0.toNat = (r.x + 32) % 256 ∧ b1.toNat = (r.y.toNat + 32) % 256 ∧
    b2.toNat = b2Nat r ((r.x + 32) % 512 / 256) ∧ b3.toNat = b3Nat r 1

/-- ENC_REL completes for every record whose anchorMode is RelativeToAnchor with deltas in -128..127: five bytes, the two
deltas as two's-complement bytes, the X-high bit that of the anchor's biased x, or of the biased delta where REL_XHI_MODE
says so, E set, and the marker 0x41 or 0x40 (R80, R72; D5, D6, D10, D11, D12). -/
def Obligations.EncRelWritesFiveBytes : Prop :=
  ∀ (r a : SpriteRecord) (patrel : Bool) (dx dy : Int) (s : State),
    r.anchorMode = .relativeToAnchor dx dy → -128 ≤ dx → dx ≤ 127 → -128 ≤ dy → dy ≤ 127 → ∃ b0 b1 b2 b3 : Byte,
    exec (.encRel r a patrel) s = .next (portWrites s .attr [b0, b1, b2, b3, if patrel then 0x41#8 else 0x40#8]) ∧
    (b0.toNat : Int) = dx % 256 ∧ (b1.toNat : Int) = dy % 256 ∧
    b2.toNat = b2Nat r (match s.cfg.relXhiMode with
      | .anchor => (a.x + 32) % 512 / 256
      | .delta => if dx < -32 then 1 else 0) ∧
    b3.toNat = b3Nat r 1

/-- ENC_ANCHOR on a record that is not ExtendedAnchor, ENC_REL on one that is not RelativeToAnchor, and ENC_REL with a
delta outside -128..127 are refused (R72, R73, R118; D12, D35). -/
def Obligations.EncodersRefuseMismatchedRecord : Prop :=
  (∀ (r : SpriteRecord) (u : Bool) (s : State), r.anchorMode ≠ .extendedAnchor →
    exec (.encAnchor r u) s = .refused .anchorMode) ∧
  (∀ (r a : SpriteRecord) (p : Bool) (s : State), (∀ dx dy, r.anchorMode ≠ .relativeToAnchor dx dy) →
    exec (.encRel r a p) s = .refused .anchorMode) ∧
  (∀ (r a : SpriteRecord) (p : Bool) (dx dy : Int) (s : State), r.anchorMode = .relativeToAnchor dx dy →
    (dx < -128 ∨ 127 < dx ∨ dy < -128 ∨ 127 < dy) → exec (.encRel r a p) s = .refused .delta)

/-- Only the low four bits of paletteOffset and the low six of patternSlot reach a record, the four in bits 7:4 of byte
2, the six in byte 3, and no other bit of either byte depends on them: two records that agree on them and on every other
field give the same bytes in all four forms, in every mode (R63, R64). -/
def Obligations.PaletteAndSlotAreMasked : Prop :=
  ∀ (r : SpriteRecord) (p n : Byte) (a : SpriteRecord) (b e : Bool) (s : State),
    (b2Of { r with paletteOffset := p } b).extractLsb' 4 4 = p.extractLsb' 0 4 ∧
    (b2Of { r with paletteOffset := p } b).extractLsb' 0 4 = (b2Of r b).extractLsb' 0 4 ∧
    (b3Of { r with patternSlot := n } e).extractLsb' 0 6 = (n &&& 0x3F#8).extractLsb' 0 6 ∧
    (b3Of { r with patternSlot := n } e).extractLsb' 6 2 = (b3Of r e).extractLsb' 6 2 ∧
    exec (.encAbs { r with paletteOffset := p, patternSlot := n }) s =
      exec (.encAbs { r with paletteOffset := p &&& 0x0F#8, patternSlot := n &&& 0x3F#8 }) s ∧
    exec (.encExt { r with paletteOffset := p, patternSlot := n }) s =
      exec (.encExt { r with paletteOffset := p &&& 0x0F#8, patternSlot := n &&& 0x3F#8 }) s ∧
    exec (.encAnchor { r with paletteOffset := p, patternSlot := n } b) s =
      exec (.encAnchor { r with paletteOffset := p &&& 0x0F#8, patternSlot := n &&& 0x3F#8 } b) s ∧
    exec (.encRel { r with paletteOffset := p, patternSlot := n } a b) s =
      exec (.encRel { r with paletteOffset := p &&& 0x0F#8, patternSlot := n &&& 0x3F#8 } a b) s

/-- The four record formats presented at the attribute port complete and write the table's bytes, field by field (R53;
D5, D6, D13, and D9 for the anchor byte, log entries 12 and 13; that REC5A keeps 0x20 under another UNIFIED_MARKER is the
model's, log entry 29, and that the port takes a whole record as one request, log entry 7). -/
def Obligations.RecordRowsWriteTheirBytes : Prop :=
  ∀ (h : RecHead) (a b : BitVec 2) (u t : Bool) (s : State), ∃ b2 b3 b3e b4s b4a b4r : Byte,
    b2.toNat = 16 * h.p.toNat + 8 * flagNat h.m + 4 * flagNat h.n + 2 * flagNat h.r + flagNat h.h ∧
    b3.toNat = 128 * flagNat h.v + h.s.toNat ∧ b3e.toNat = 128 * flagNat h.v + 64 + h.s.toNat ∧
    b4s.toNat = 8 * a.toNat + 2 * b.toNat ∧ b4a.toNat = 32 * flagNat u ∧ b4r.toNat = 64 + flagNat t ∧
    exec (.rec4 h) s = .next (portWrites s .attr [h.x, h.y, b2, b3]) ∧
    exec (.rec5s h a b) s = .next (portWrites s .attr [h.x, h.y, b2, b3e, b4s]) ∧
    exec (.rec5a h u) s = .next (portWrites s .attr [h.x, h.y, b2, b3e, b4a]) ∧
    exec (.rec5r h t) s = .next (portWrites s .attr [h.x, h.y, b2, b3e, b4r])

/-- An operation that writes a record, begun at byte 0 of a slot, completes, stores its bytes as bytes 0, 1, 2, ... of
that slot, and leaves the cursor at byte 0 of the next (R81, R36, R45; the move to the next slot is D14). -/
def Obligations.RecordLandsInSelectedSlot : Prop :=
  ∀ (i : Instr) (bytes : List Byte) (s : State), recordOf s.cfg i = some bytes → s.port.attrByte = 0 →
    ∃ t, exec i s = .next t ∧ (bytes.length = 4 ∨ bytes.length = 5) ∧
      (∀ k : Fin 5, k.val < bytes.length → some (t.port.readAttr (attrAddr s.port.attrSlot k)) = bytes[k.val]?) ∧
      t.port.attrByte = 0 ∧ t.port.attrSlot = (s.port.attrSlot + 1) % s.cfg.nAttrSlots

/-- The frame of the record-writing operations, wherever the cursor stands: their bytes are appended to the trace, the
engine, the parameters, the environment and the pattern, palette and register side are untouched, and the attribute
store differs at the stored addresses only, which are those the cursor passes through (R81, R52, R36; past the end of a
record the cursor goes on in the next slot, D14, log entry 14). -/
def Obligations.RecordEmissionFrame : Prop :=
  ∀ (i : Instr) (bytes : List Byte) (s : State), recordOf s.cfg i = some bytes →
    ∃ t, exec i s = .next t ∧ t.cfg = s.cfg ∧ t.engine = s.engine ∧ t.env = s.env ∧
      t.trace = s.trace ++ bytes.map (Event.w .attr) ∧
      t.port = { s.port with attr := t.port.attr, attrSlot := t.port.attrSlot, attrByte := t.port.attrByte } ∧
      ∀ a, a ∉ attrAddrs s.cfg.nAttrSlots s.port.attrSlot s.port.attrByte bytes →
        t.port.readAttr a = s.port.readAttr a

/-- The attribute port's reaction to one byte, at every position: the byte is stored there, and the cursor moves through
bytes 0 to 3, on to the fifth when the fourth has bit 6 set, else to byte 0 of the next slot, which is slot 0 after the
last; every other byte, and everything else, is as it was (R36, R45; D6, D14, D15). -/
def Obligations.AttributePortAdvances : Prop :=
  ∀ (s : State) (v : Byte),
    (portWrite s .attr v).trace = s.trace ++ [.w .attr v] ∧
    (portWrite s .attr v).port.readAttr (5 * s.port.attrSlot + s.port.attrByte.val) = v ∧
    (∀ a, a ≠ 5 * s.port.attrSlot + s.port.attrByte.val → (portWrite s .attr v).port.readAttr a = s.port.readAttr a) ∧
    (portWrite s .attr v).port = { s.port with
      attr := (portWrite s .attr v).port.attr
      attrSlot := (portWrite s .attr v).port.attrSlot
      attrByte := (portWrite s .attr v).port.attrByte } ∧
    (portWrite s .attr v).engine = s.engine ∧ (portWrite s .attr v).cfg = s.cfg ∧ (portWrite s .attr v).env = s.env ∧
    (s.port.attrByte.val < 3 → (portWrite s .attr v).port.attrSlot = s.port.attrSlot ∧
      (portWrite s .attr v).port.attrByte.val = s.port.attrByte.val + 1) ∧
    (s.port.attrByte.val = 3 → v.getLsbD 6 = true → (portWrite s .attr v).port.attrSlot = s.port.attrSlot ∧
      (portWrite s .attr v).port.attrByte.val = 4) ∧
    (s.port.attrByte.val = 3 → v.getLsbD 6 = false →
      (portWrite s .attr v).port.attrSlot = (s.port.attrSlot + 1) % s.cfg.nAttrSlots ∧
      (portWrite s .attr v).port.attrByte.val = 0) ∧
    (s.port.attrByte.val = 4 → (portWrite s .attr v).port.attrSlot = (s.port.attrSlot + 1) % s.cfg.nAttrSlots ∧
      (portWrite s .attr v).port.attrByte.val = 0)

/-! ## Encoding and decoding -/

/-- Decoding an encoded well-formed instruction gives it back, every operand at every value (R66, R75, R53, R69). -/
def Obligations.DecodeOfEncodeIsIdentity : Prop :=
  ∀ i : Instr, i.wf = true → decode (encode i) = .ok i

/-- A record has one reading: whatever whole record the decoder accepts, encoding what it read gives the same bytes, so
no bit of a record is ignored (R53, R67, R69). -/
def Obligations.RecordDecodingLosesNoBit : Prop :=
  ∀ (bytes : List Byte) (i : Instr), decode (.record bytes) = .ok i → encode i = .record bytes ∧ i.wf = true

/-- The field view of rule R69 inverts all four formats, whatever a stale fifth byte of a four-byte record holds. -/
def Obligations.RecordViewReadsFormats : Prop :=
  ∀ (h : RecHead) (a b : BitVec 2) (u t : Bool) (b0 b1 b2 b3 b4 stale : Byte),
    (rec4Bytes h = [b0, b1, b2, b3] → viewRecord b0 b1 b2 b3 stale =
      ⟨BitVec.ofBool h.h ++ h.x, h.y, h.p, h.m, h.n, h.r, h.v, false, h.s, .absent⟩) ∧
    (rec5sBytes h a b = [b0, b1, b2, b3, b4] → viewRecord b0 b1 b2 b3 b4 =
      ⟨BitVec.ofBool h.h ++ h.x, h.y, h.p, h.m, h.n, h.r, h.v, true, h.s, .plain a b false⟩) ∧
    (rec5aBytes h u = [b0, b1, b2, b3, b4] → viewRecord b0 b1 b2 b3 b4 =
      ⟨BitVec.ofBool h.h ++ h.x, h.y, h.p, h.m, h.n, h.r, h.v, true, h.s, .plain 0#2 0#2 u⟩) ∧
    (rec5rBytes h t = [b0, b1, b2, b3, b4] → viewRecord b0 b1 b2 b3 b4 =
      ⟨BitVec.ofBool h.h ++ h.x, h.y, h.p, h.m, h.n, h.r, h.v, true, h.s, .relative t h.x.toInt h.y.toInt⟩)

/-- Some words written out from the tables of rules R66 and R53 decode to what they stand for: selectors 0x00, 0x13 and
0x23, and the records `2C 64 39 85`, `84 52 20 C7 08`, `10 70 11 CA 20`, `F0 10 10 C1 41` of 95_test_vectors.md (selector
numbers D3; flag positions D5 and D6, marker D9). The operands that a bare selector decodes with, and b0 on the most
significant side of a word, are the model's choice (log entry 21). -/
def Obligations.TableWordsDecode : Prop :=
  decodeTableWord 8 0x00 = some (.selectSlot 0x00#8) ∧ decodeTableWord 8 0x13 = some (.hstep 0) ∧
  decodeTableWord 8 0x23 = some (.selectPatternSlot 0x00#8) ∧
  decodeTableWord 32 0x2C643985 = some (.rec4 ⟨0x2C#8, 0x64#8, 3#4, true, false, false, true, true, 5#6⟩) ∧
  decodeTableWord 40 0x845220C708 = some (.rec5s ⟨0x84#8, 0x52#8, 2#4, false, false, false, false, true, 7#6⟩ 1#2 0#2) ∧
  decodeTableWord 40 0x107011CA20 = some (.rec5a ⟨0x10#8, 0x70#8, 1#4, false, false, false, true, true, 10#6⟩ true) ∧
  decodeTableWord 40 0xF01010C141 = some (.rec5r ⟨0xF0#8, 0x10#8, 1#4, false, false, false, false, true, 1#6⟩ true)

/-- A command whose selector rule R66 does not assign is refused, whatever its operands (R74; D31). -/
def Obligations.UnassignedSelectorIsRefused : Prop :=
  ∀ (s : State) (sel : Byte) (bus : OperandBus) (rest : List Input), s.cfgValid = true → s.engine.loop = .none →
    s.env.inputs = .request (.command sel bus) :: rest → sel.toNat ∉ assignedSelectors →
    step s = .refused (.undecodable (.unassignedSelector sel))

/-! ## Sprites -/

/-- SPAWN completes for i < N_SPRITES, y <= 192 and velocities -1 or +1: the sprite is replaced whole, with pattern index
0 and mirror flag 0, and nothing else changes (R83; D19, D22). -/
def Obligations.SpawnReplacesSprite : Prop :=
  ∀ (i : Nat) (x y : Byte) (dx dy : Dir) (s : State), i < s.nSprites → y.toNat ≤ 192 →
    exec (.spawn i x y dx.toInt dy.toInt) s = .next
      { s with engine := { s.engine with sprites := s.engine.sprites.set i (some ⟨x, y, dx, dy, 0, false⟩) } }

/-- SPAWN outside its operand types is refused (R83, R118; D19). -/
def Obligations.SpawnRefusesBadOperands : Prop :=
  ∀ (i : Nat) (x y : Byte) (vx vy : Int) (s : State),
    (s.nSprites ≤ i ∨ 192 < y.toNat ∨ (vx ≠ 1 ∧ vx ≠ -1) ∨ (vy ≠ 1 ∧ vy ≠ -1)) →
    ∃ r, exec (.spawn i x y vx vy) s = .refused r

/-- INIT completes in every state: phase 0, and sprite i at (X_STEP i + X_START, Y_START) with each velocity -1 or +1,
pattern 0 and mirror 0; where the environment supplies the draws, vx and vy of sprite i are draws 2i and 2i + 1 with a raw
0 made +1; nothing else changes (R84, R85; D16, D22, D23). -/
def Obligations.InitSpawnsEverySprite : Prop :=
  ∀ s : State, ∃ t, exec .init s = .next t ∧ t.engine.phase = 0#4 ∧ t.nSprites = s.nSprites ∧
    t.engine.seq = s.engine.seq ∧ t.engine.loop = s.engine.loop ∧ t.cfg = s.cfg ∧ t.port = s.port ∧
    t.trace = s.trace ∧ t.env = { s.env with draws := t.env.draws, taken := t.env.taken } ∧
    (∀ i, i < s.nSprites → ∃ vx vy : Dir, t.sprite i =
      some ⟨BitVec.ofNat 8 (s.cfg.xStep * i + s.cfg.xStart), BitVec.ofNat 8 s.cfg.yStart, vx, vy, 0, false⟩) ∧
    (2 * s.nSprites ≤ s.env.draws.length → t.env.draws = s.env.draws.drop (2 * s.nSprites) ∧
      ∀ i sp d e, t.sprite i = some sp → s.env.draws[2 * i]? = some d → s.env.draws[2 * i + 1]? = some e →
        sp.vx = velocityOf d ∧ sp.vy = velocityOf e)

/-- PATCYCLE completes when every sprite is written: the phase goes up by one modulo 16, and exactly when it returns to 0
every sprite's pattern index goes up by one modulo PATTERN_SET_SIZE; nothing else changes (R86; D16). -/
def Obligations.PatcycleAdvancesEverySixteenth : Prop :=
  ∀ s : State, s.allWritten = true → ∃ t, exec .patcycle s = .next t ∧
    t.engine.phase.toNat = (s.engine.phase.toNat + 1) % 16 ∧
    (∀ i sp, s.sprite i = some sp → t.sprite i = some { sp with pat :=
      if s.engine.phase.toNat = 15 then (sp.pat + 1) % s.cfg.patternSet.length else sp.pat }) ∧
    t.nSprites = s.nSprites ∧ t.engine.seq = s.engine.seq ∧ t.engine.loop = s.engine.loop ∧
    t.cfg = s.cfg ∧ t.port = s.port ∧ t.trace = s.trace ∧ t.env = s.env

/-- HSTEP i completes on a written sprite, in the rule's own terms: the byte sum newx, a bounce at the right wall when vx
is +1 and newx is below x, at the left wall when vx is -1 and newx is above x, else newx; the mirror flag is written on a
bounce only, y, vy and pat never, and nothing else, no port and no trace among it, changes; its selector is 0x13
(R87). -/
def Obligations.HstepBouncesOnByteWrap : Prop :=
  (∀ bus : OperandBus, decode (.command 0x13#8 bus) = .ok (.hstep bus.index)) ∧
  ∀ (s : State) (i : Nat) (sp : Sprite), s.sprite i = some sp → ∃ sp' : Sprite,
    exec (.hstep i) s = .next
      { s with engine := { s.engine with sprites := s.engine.sprites.set i (some sp') } } ∧
    (sp.vx = .plus → sp.x + 1 < sp.x → sp' = { sp with x := 255#8, vx := .minus, mir := true }) ∧
    (sp.vx = .plus → ¬ sp.x + 1 < sp.x → sp' = { sp with x := sp.x + 1 }) ∧
    (sp.vx = .minus → sp.x < sp.x - 1 → sp' = { sp with x := 0#8, vx := .plus, mir := false }) ∧
    (sp.vx = .minus → ¬ sp.x < sp.x - 1 → sp' = { sp with x := sp.x - 1 })

/-- VSTEP i completes on a written sprite: newy over the integers, clamped to 192 or 0 with vy reversed, else adopted; no
flag, and nothing else, changes (R88; the lower test is D20). For a well-formed sprite the 8-bit realisation that the
rule quotes agrees. -/
def Obligations.VstepClampsAndReverses : Prop :=
  ∀ (s : State) (i : Nat) (sp : Sprite), s.sprite i = some sp → ∃ sp' : Sprite,
    exec (.vstep i) s = .next
      { s with engine := { s.engine with sprites := s.engine.sprites.set i (some sp') } } ∧
    (192 < (sp.y.toNat : Int) + sp.vy.toInt → sp' = { sp with y := 192#8, vy := sp.vy.flip }) ∧
    ((sp.y.toNat : Int) + sp.vy.toInt < 0 → sp' = { sp with y := 0#8, vy := sp.vy.flip }) ∧
    (0 ≤ (sp.y.toNat : Int) + sp.vy.toInt → (sp.y.toNat : Int) + sp.vy.toInt ≤ 192 →
      (sp'.y.toNat : Int) = sp.y.toNat + sp.vy.toInt ∧ sp' = { sp with y := sp'.y }) ∧
    (sp.y.toNat ≤ 192 → ∀ n : Byte, n = BitVec.ofInt 8 (sp.y.toNat + sp.vy.toInt) →
      sp' = if sp.vy = .plus ∧ 192 < n.toNat then { sp with y := 192#8, vy := .minus }
        else if sp.vy = .minus ∧ sp.y < n then { sp with y := 0#8, vy := .plus } else { sp with y := n })

/-- TICK completes when every sprite is written: the phase goes up by one modulo 16, sprite i is advanced, stepped
horizontally and stepped vertically, and nothing else changes (R89; D16, D21). -/
def Obligations.TickStepsEverySprite : Prop :=
  ∀ s : State, s.allWritten = true → ∃ t, exec .tick s = .next t ∧
    t.engine.phase = s.engine.phase + 1 ∧ t.nSprites = s.nSprites ∧
    (∀ i sp, s.sprite i = some sp → t.sprite i = some (vstepSprite (hstepSprite
      (if s.engine.phase.toNat = 15 then { sp with pat := (sp.pat + 1) % s.cfg.patternSet.length } else sp)))) ∧
    t.engine.seq = s.engine.seq ∧ t.engine.loop = s.engine.loop ∧
    t.cfg = s.cfg ∧ t.port = s.port ∧ t.trace = s.trace ∧ t.env = s.env

/-- TICK is PATCYCLE; HSTEP 0; VSTEP 0; ...; HSTEP N-1; VSTEP N-1, in every state, refusals included (R89, R70; D21). -/
def Obligations.TickIsItsExpansion : Prop :=
  ∀ s : State, exec .tick s =
    execList (.patcycle :: (List.range s.nSprites).flatMap (fun i => [.hstep i, .vstep i])) s

/-- An operation that reads an unwritten sprite register is refused: HSTEP and VSTEP of one that is unwritten; PATCYCLE,
TICK, EMIT_ALL, FRAME and RUN, whatever its budget, when any is unwritten (R14, R118; D25; for RUN 0, log entry 17). That
HSTEP and VSTEP of an absent register are refused too is the model's deduction (log entry 19). -/
def Obligations.UnwrittenSpritesAreRefused : Prop :=
  ∀ s : State,
    (∀ i, i < s.nSprites → s.sprite i = none →
      exec (.hstep i) s = .refused .unwrittenSprite ∧ exec (.vstep i) s = .refused .unwrittenSprite ∧
      exec .patcycle s = .refused .unwrittenSprite ∧ exec .tick s = .refused .unwrittenSprite ∧
      exec .emitAll s = .refused .unwrittenSprite ∧ exec .frame s = .refused .unwrittenSprite ∧
      ∀ n, exec (.run n) s = .refused .unwrittenSprite) ∧
    (∀ i, s.nSprites ≤ i → exec (.hstep i) s = .refused .spriteIndex ∧ exec (.vstep i) s = .refused .spriteIndex)

/-- The mirror flag says which way a sprite moves, once it has bounced: a bounce makes mir = 1 exactly when vx = -1, and
HSTEP keeps that (R97, derived by the spec from R83 and R87). -/
def Obligations.MirrorFollowsDirection : Prop :=
  ∀ (s : State) (i : Nat) (sp : Sprite), s.sprite i = some sp → ∃ t sp', exec (.hstep i) s = .next t ∧
    t.sprite i = some sp' ∧
    ((sp.mir = true ↔ sp.vx = .minus) → (sp'.mir = true ↔ sp'.vx = .minus)) ∧
    (sp'.vx ≠ sp.vx → (sp'.mir = true ↔ sp'.vx = .minus))

/-- After INIT and any number of ticks every sprite is within its bounds: y <= 192, and the pattern index within its set;
x is a byte (R95, the source's end-to-end property, for the sprites that INIT spawns, R84, and TICK steps, R89; D20). The
premise is the constraints on the parameters (R7; D22). -/
def Obligations.SpritesStayInBounds : Prop :=
  ∀ (s : State) (k : Nat), s.cfgValid = true → ∃ t, execList (.init :: List.replicate k .tick) s = .next t ∧
    ∀ i, i < s.nSprites → ∃ sp, t.sprite i = some sp ∧ sp.y.toNat ≤ 192 ∧ sp.x.toNat ≤ 255 ∧
      sp.pat < s.cfg.patternSet.length

/-- The periods: 512 horizontal steps bring a sprite back to its x and vx, 386 vertical steps a well-formed one to its y
and vy (R99, derived by the spec from R87 and R88). -/
def Obligations.StepsArePeriodic : Prop :=
  ∀ (s : State) (i : Nat) (sp : Sprite), s.sprite i = some sp →
    (∃ t sp', execList (List.replicate 512 (.hstep i)) s = .next t ∧ t.sprite i = some sp' ∧
      sp'.x = sp.x ∧ sp'.vx = sp.vx) ∧
    (sp.y.toNat ≤ 192 → ∃ t, execList (List.replicate 386 (.vstep i)) s = .next t ∧ t.sprite i = some sp)

/-! ## Emission and frames -/

/-- EMIT_ALL is SELECT_SLOT ATTR_BASE followed by ENC_EXT of every sprite's record, ascending (R91, R70; D26). -/
def Obligations.EmitAllIsItsExpansion : Prop :=
  ∀ s : State, s.allWritten = true → exec .emitAll s =
    execList (.selectSlot s.cfg.attrBase ::
      s.engine.sprites.filterMap (Option.map (fun sp => .encExt (animRecord s.cfg sp)))) s

/-- EMIT_ALL completes when every sprite is written: one slot select, then four bytes for each sprite in order, those of
rule R90; the engine and everything but the attribute store and its cursor are untouched (R90, R91; D5, D6, D17, D18,
D26). -/
def Obligations.EmitAllWritesEverySprite : Prop :=
  ∀ s : State, s.allWritten = true → ∃ t, ∃ bytesOfSprite : Sprite → List Byte, exec .emitAll s = .next t ∧
    t.trace = s.trace ++ .w .slot s.cfg.attrBase ::
      ((s.engine.sprites.filterMap id).flatMap bytesOfSprite).map (Event.w .attr) ∧
    (∀ sp, ∃ b0 b1 b2 b3 : Byte, bytesOfSprite sp = [b0, b1, b2, b3] ∧
      b0.toNat = (sp.x.toNat + 32) % 256 ∧ b1.toNat = (sp.y.toNat + 32) % 256 ∧
      b2.toNat = 16 * (s.cfg.animPalette.toNat % 16) + 8 * flagNat sp.mir + (sp.x.toNat + 32) / 256 ∧
      b3.toNat = 128 + (patternSlotOf s.cfg sp.pat).toNat % 64) ∧
    t.engine = s.engine ∧ t.cfg = s.cfg ∧ t.env = s.env ∧
    t.port = { s.port with attr := t.port.attr, attrSlot := t.port.attrSlot, attrByte := t.port.attrByte }

/-- After EMIT_ALL the slot ATTR_BASE + i shows sprite i: its x and y plus 32, its pattern slot, its mirror flag, visible
and unscaled; the cursor stands at byte 0 of the slot after the last, and no address outside the first four bytes of
those slots has changed (R91, R126; D14, D17, D18, D26). -/
def Obligations.EmitAllShowsEverySprite : Prop :=
  ∀ s : State, s.cfgValid = true → s.allWritten = true → ∃ t, exec .emitAll s = .next t ∧
    (∀ i sp, s.sprite i = some sp → t.viewSlot (s.cfg.attrBase.toNat + i) = spriteView s.cfg sp) ∧
    t.port.attrByte = 0 ∧ t.port.attrSlot = (s.cfg.attrBase.toNat + s.nSprites) % s.cfg.nAttrSlots ∧
    ∀ a, (∀ i k, i < s.nSprites → k < 4 → a ≠ 5 * (s.cfg.attrBase.toNat + i) + k) →
      t.port.readAttr a = s.port.readAttr a

/-- WAIT_FRAME completes its first poll in every state: one read of P_LINE; the sequencer is at WAIT_ENTER when the
sample differs from 192 and at WAIT_LEAVE when it does not; no sprite register and nothing behind the ports changes (R92;
D24; that the wait is one poll a step is the model's, log entry 5). -/
def Obligations.WaitFramePollsOnce : Prop :=
  ∀ s : State, ∃ t, exec .waitFrame s = .next t ∧ t.trace = s.trace ++ [.r .line s.lineValue] ∧
    t.engine = { s.engine with
      seq := if s.lineValue = 192 then .waitLeave else .waitEnter
      loop := .wait } ∧
    t.cfg = s.cfg ∧ t.port = s.port ∧ t.env = s.env.dropLine

/-- The wait state ends on its two conditions only, and everything else survives it: in WAIT_LEAVE a sample of 192, in
WAIT_ENTER any other sample, leaves the machine waiting with nothing changed but the read event and the sample taken;
a sample off 192 moves WAIT_LEAVE to WAIT_ENTER, and a sample of 192 in WAIT_ENTER ends the wait: the operation is over
or its next frame is due, the sprites, the phase and everything behind the ports as they were (R125, R92; D24). That a
step is one poll, and the field loop, are the model's choice (log entry 5). -/
def Obligations.WaitStaysUntilBeamMoves : Prop :=
  ∀ s : State, s.cfgValid = true → s.engine.loop ≠ .none →
    (s.engine.seq = .waitLeave → s.lineValue = 192 → step s = .next
      { s with trace := s.trace ++ [.r .line 192], env := s.env.dropLine }) ∧
    (s.engine.seq = .waitEnter → s.lineValue ≠ 192 → step s = .next
      { s with trace := s.trace ++ [.r .line s.lineValue], env := s.env.dropLine }) ∧
    (s.engine.seq = .waitLeave → s.lineValue ≠ 192 → step s = .next
      { s with
        trace := s.trace ++ [.r .line s.lineValue]
        env := s.env.dropLine
        engine := { s.engine with seq := .waitEnter } }) ∧
    (s.engine.seq = .waitEnter → s.lineValue = 192 → ∃ t, step s = .next t ∧
      (t.engine.loop = .none ∨ t.engine.seq = .update) ∧ t.trace = s.trace ++ [.r .line 192] ∧
      t.env = s.env.dropLine ∧ t.engine.sprites = s.engine.sprites ∧ t.engine.phase = s.engine.phase ∧
      t.port = s.port ∧ t.cfg = s.cfg)

/-- WAIT_FRAME commanded to an idle machine ends after exactly the reads the samples call for, on the first 192 after the
first sample off 192: the reads in the trace, the sequencer where the wait left it, nothing else changed (R92, R134;
D24). -/
def Obligations.WaitFrameEndsWithSamples : Prop :=
  ∀ (s : State) (samples rest : List Nat) (more : List Input), s.cfgValid = true → s.engine.loop = .none →
    waitSamples s.cfg samples → s.env.line = samples ++ rest → s.env.inputs = .request (encode .waitFrame) :: more →
    Sys2Proof.core.run samples.length s = .next ((s.takeInput.afterReads samples rest).setSeq .waitEnter)

/-- FRAME completes its tick when every sprite is written, and leaves the emission due (R93; log entry 5). -/
def Obligations.FrameBeginsWithTick : Prop :=
  ∀ s : State, s.allWritten = true →
    exec .frame s = .next { tickAll s with engine := { (tickAll s).engine with seq := .emit, loop := .frame } }

/-- RUN completes its first tick when every sprite is written, for any budget from 1 up and for an endless one; RUN 0
then changes nothing but seq, which is HALT (R94; D28; log entries 5 and 17). -/
def Obligations.RunBeginsWithTick : Prop :=
  ∀ s : State, s.allWritten = true →
    exec (.run (.finite 0)) s = .next { s with engine := { s.engine with seq := .halt } } ∧
    (∀ n : Budget, n ≠ .finite 0 →
      exec (.run n) s = .next { tickAll s with engine := { (tickAll s).engine with seq := .emit, loop := .run n } })

/-- The fixed cycle of the sequencer: with a loop in progress UPDATE ticks and goes to EMIT, EMIT emits and goes to
WAIT_LEAVE, and the end of the wait goes to UPDATE for FRAME and for a RUN with frames left, to HALT for a RUN on its
last frame; an endless RUN never halts (R18, R93, R94, R98; D3, D28). -/
def Obligations.SequencerCyclesThroughPhases : Prop :=
  ∀ s : State, s.cfgValid = true → s.engine.loop ≠ .none →
    (s.engine.seq = .update → s.allWritten = true → step s = .next ((tickAll s).setSeq .emit)) ∧
    (s.engine.seq = .emit → s.allWritten = true → step s = .next ((emitSprites s).setSeq .waitLeave)) ∧
    (s.engine.seq = .waitEnter → s.lineValue = 192 → ∃ t, step s = .next t ∧
      t.trace = s.trace ++ [.r .line 192] ∧ t.env = s.env.dropLine ∧ t.port = s.port ∧ t.cfg = s.cfg ∧
      t.engine.sprites = s.engine.sprites ∧ t.engine.phase = s.engine.phase ∧
      (s.engine.loop = .wait → t.engine.seq = .waitEnter ∧ t.engine.loop = .none) ∧
      (s.engine.loop = .frame → t.engine.seq = .update ∧ t.engine.loop = .none) ∧
      (s.engine.loop = .run .infinite → t.engine.seq = .update ∧ t.engine.loop = .run .infinite) ∧
      (s.engine.loop = .run (.finite 1) → t.engine.seq = .halt ∧ t.engine.loop = .none) ∧
      ∀ n, 2 ≤ n → s.engine.loop = .run (.finite n) →
        t.engine.seq = .update ∧ t.engine.loop = .run (.finite (n - 1)))

/-- FRAME commanded to an idle machine whose sprites are written is TICK, then EMIT_ALL, then the frame wait: after two
steps and one for each further sample it has ended with the sequencer at UPDATE (R93; D24, log entry 5). -/
def Obligations.FrameIsTickEmitWait : Prop :=
  ∀ (s : State) (samples rest : List Nat) (more : List Input), s.cfgValid = true → s.engine.loop = .none →
    s.allWritten = true → waitSamples s.cfg samples → s.env.line = samples ++ rest →
    s.env.inputs = .request (encode .frame) :: more → ∃ t u : State,
    exec .tick s.takeInput = .next t ∧ exec .emitAll t = .next u ∧
    Sys2Proof.core.run (2 + samples.length) s = .next ((u.afterReads samples rest).setSeq .update)

/-- RUN n with n >= 1 on an idle machine whose sprites are written, given samples that end each of its n waits, comes to
HALT: the sprites and the phase are those after n ticks, and the trace has grown by n slot selects and 4 n N_SPRITES
attribute bytes (R94; D24, D28). -/
def Obligations.RunHaltsAfterItsFrames : Prop :=
  ∀ (s : State) (frames : List (List Nat)) (rest : List Nat) (more : List Input), s.cfgValid = true →
    s.engine.loop = .none → s.allWritten = true → 1 ≤ frames.length → (∀ f ∈ frames, waitSamples s.cfg f) →
    s.env.line = frames.flatten ++ rest → s.env.inputs = .request (encode (.run (.finite frames.length))) :: more →
    ∃ k t, Sys2Proof.core.run k s = .next t ∧ t.engine.seq = .halt ∧ t.engine.loop = .none ∧
      t.engine.sprites = (tickAll^[frames.length] s).engine.sprites ∧
      t.engine.phase = (tickAll^[frames.length] s).engine.phase ∧
      t.env.inputs = more ∧ t.env.line = rest ∧ t.cfg = s.cfg ∧
      slotSelects t.trace = slotSelects s.trace + frames.length ∧
      attrWrites t.trace = attrWrites s.trace + 4 * frames.length * s.nSprites

/-- While an operation is in progress no other can be issued: a step takes nothing from the command interface (R120). -/
def Obligations.NothingIsIssuedDuringALoop : Prop :=
  ∀ s t : State, s.engine.loop ≠ .none → step s = .next t → t.env.inputs = s.env.inputs

/-! ## The adjacent operations -/

/-- REG_SELECT, selector 0x20, is one write to P_REGSEL, after which that register is the selected one, whichever was
before (R100, R49). The mark regChosen that one has been selected is the model's (log entry 28). -/
def Obligations.RegSelectReplacesSelection : Prop :=
  (∀ bus : OperandBus, decode (.command 0x20#8 bus) = .ok (.regSelect bus.byte)) ∧
  ∀ (id : Byte) (s : State), exec (.regSelect id) s = .next
    { s with trace := s.trace ++ [.w .regSel id], port := { s.port with regSel := id, regChosen := true } }

/-- REG_WRITE completes once a register has been selected, and is refused before (R101, R49, R51; D25, D32): the write
goes to the pattern slot, the palette index, the palette data or, for any other id, changes nothing but the trace. The
premise that the three ids differ is the model's reading of an open parameter (log entry 23), and regChosen its mark that
one has been selected (log entry 28). -/
def Obligations.RegWriteReachesSelectedRegister : Prop :=
  ∀ (v : Byte) (s : State),
    (s.port.regChosen = false → exec (.regWrite v) s = .refused .regSelUnspecified) ∧
    (s.port.regChosen = true → ∃ c : Coproc,
      exec (.regWrite v) s = .next { s with trace := s.trace ++ [.w .regData v], port := c } ∧ dataWriteLeaves s v c)

/-- REG_READ completes once a register has been selected, and is refused before: one read event with the byte the
environment gives, whatever it is, returned to the commander, and no state of the hardware changed (R102, R37; D24, D25;
regChosen is the model's mark that one has been selected, log entry 28). -/
def Obligations.RegReadReturnsFreeByte : Prop :=
  ∀ s : State,
    (s.port.regChosen = false → exec .regRead s = .refused .regSelUnspecified) ∧
    (s.port.regChosen = true → ∃ (v : Byte) (t : State), exec .regRead s = .next t ∧
      t.trace = s.trace ++ [.r .regData v.toNat] ∧ t.env.result = some v ∧
      (∀ w ws, s.env.data = w :: ws → v = w ∧ t.env.data = ws) ∧
      t.env.inputs = s.env.inputs ∧ t.env.line = s.env.line ∧ t.env.draws = s.env.draws ∧ t.env.loader = s.env.loader ∧
      t.cfg = s.cfg ∧ t.engine = s.engine ∧ t.port = s.port)

/-- SELECT_PATTERN_SLOT, selector 0x23, is REG_SELECT REG_PAT_SLOT and REG_WRITE of the slot masked to six bits; the
active pattern slot is that, at byte 0, and nothing else changes (R103, R49; D32). The premise of the last clause, that the
three ids differ, is the model's reading of an open parameter (log entry 23), and regChosen its mark that a register has
been selected (log entry 28). -/
def Obligations.SelectPatternSlotMasks : Prop :=
  (∀ bus : OperandBus, decode (.command 0x23#8 bus) = .ok (.selectPatternSlot bus.byte)) ∧
  ∀ (slot : Byte) (s : State), ∃ (v : Byte) (t : State), v.toNat = slot.toNat % 64 ∧
    exec (.selectPatternSlot slot) s = .next t ∧ execList [.regSelect s.cfg.regPatSlot, .regWrite v] s = .next t ∧
    t.trace = s.trace ++ [.w .regSel s.cfg.regPatSlot, .w .regData v] ∧
    t.port.patSlot.toNat = slot.toNat % 64 ∧ t.port.patPos = 0#8 ∧ t.port.regSel = s.cfg.regPatSlot ∧ t.port.regChosen = true ∧
    t.port.pat = s.port.pat ∧ t.port.attr = s.port.attr ∧ t.port.attrSlot = s.port.attrSlot ∧
    t.port.attrByte = s.port.attrByte ∧ t.cfg = s.cfg ∧ t.engine = s.engine ∧ t.env = s.env ∧
    (idsDiffer s.cfg → t.port.palIndex = s.port.palIndex ∧ t.port.palHalf = s.port.palHalf ∧ t.port.pal = s.port.pal)

/-- UPLOAD_PATTERN of 256 bytes completes: 256 writes to P_PATTERN in order, stored one after another from where the
active slot and position stand (from byte 0, the active slot's whole block), the position then 256 bytes on, in the next
slot; every other address, and everything else, is unchanged. A block of any other length is refused (R104, R50). -/
def Obligations.UploadPatternFillsSlot : Prop :=
  ∀ (block : List Byte) (s : State),
    (block.length ≠ 256 → exec (.uploadPattern block) s = .refused .blockLength) ∧
    (block.length = 256 → ∃ t, exec (.uploadPattern block) s = .next t ∧
      t.trace = s.trace ++ block.map (Event.w .pattern) ∧
      (∀ n, n < 256 → some (t.port.readPat ((256 * s.port.patSlot.toNat + s.port.patPos.toNat + n) % 16384)) = block[n]?) ∧
      (∀ a, (∀ n, n < 256 → a ≠ (256 * s.port.patSlot.toNat + s.port.patPos.toNat + n) % 16384) →
        t.port.readPat a = s.port.readPat a) ∧
      t.port.patSlot = s.port.patSlot + 1 ∧ t.port.patPos = s.port.patPos ∧
      t.port = { s.port with pat := t.port.pat, patSlot := t.port.patSlot } ∧
      t.cfg = s.cfg ∧ t.engine = s.engine ∧ t.env = s.env)

/-- UPLOAD_PATTERN_SERIES completes for every source, start and count: a source that does not open touches no port; a
count clamped to 0 touches no port and reads nothing; else one select of startSlot, then the blocks read before the first
failure, at most count' of them, each in its own slot; the source is closed once whenever it opened; every other
byte of the pattern memory, the attribute side and, where the three ids differ, the palette side are unchanged (R105, R108;
D32, D33; log entry 18; the premise that the ids differ is the model's reading of an open parameter, log entry 23, and
regChosen its mark that a register has been selected, log entry 28). -/
def Obligations.PatternSeriesClampsAndAborts : Prop :=
  ∀ (src : Source) (start count : Nat) (s : State), ∃ t, exec (.uploadPatternSeries src start count) s = .next t ∧
    t.cfg = s.cfg ∧ t.engine = s.engine ∧ t.env = { s.env with loader := t.env.loader } ∧
    (src.opens = false → t.trace = s.trace ∧ t.port = s.port ∧ t.env.loader = s.env.loader ++ [.openFailed]) ∧
    (src.opens = true → min count (64 - start) = 0 →
      t.trace = s.trace ∧ t.port = s.port ∧ t.env.loader = s.env.loader ++ [.opened, .closed]) ∧
    (src.opens = true → 0 < min count (64 - start) → ∀ blocks, blocks = goodReads (min count (64 - start)) src.reads →
      t.trace = s.trace ++ [.w .regSel s.cfg.regPatSlot, .w .regData (BitVec.ofNat 8 start)] ++
        (blocks.flatMap Vector.toList).map (Event.w .pattern) ∧
      (∀ k b n, blocks[k]? = some b → n < 256 → some (t.port.readPat (256 * (start + k) + n)) = b.toList[n]?) ∧
      (∀ a, (a < 256 * start ∨ 256 * (start + blocks.length) ≤ a) → t.port.readPat a = s.port.readPat a) ∧
      t.port.patSlot.toNat = (start + blocks.length) % 64 ∧ t.port.patPos = 0#8 ∧
      t.port.attr = s.port.attr ∧ t.port.attrSlot = s.port.attrSlot ∧ t.port.attrByte = s.port.attrByte ∧
      (∃ reads, t.env.loader = s.env.loader ++ [.opened] ++ reads ++ [.closed] ∧ ∀ e ∈ reads, ∃ ok, e = .read ok) ∧
      t.port.regSel = s.cfg.regPatSlot ∧ t.port.regChosen = true ∧
      (idsDiffer s.cfg → t.port.pal = s.port.pal ∧ t.port.palIndex = s.port.palIndex ∧ t.port.palHalf = s.port.palHalf))

/-- UPLOAD_PALETTE: an absent bank, a zero length and a clamp to 0 complete without effect; a bank shorter than the
clamped length is refused; else it completes, sending the index and then each entry low byte first, the entries land at
paletteIndex on, and every other byte of every store is unchanged (R106, R116; D32). The premise that the three ids
differ is the model's reading of an open parameter (log entry 23), and regChosen its mark that a register has been selected
(log entry 28). -/
def Obligations.UploadPaletteClampsAndWrites : Prop :=
  ∀ (idx len : Nat) (s : State),
    exec (.uploadPalette none idx len) s = .next s ∧
    ∀ bank : List Entry,
      (min len (256 - idx) = 0 → exec (.uploadPalette (some bank) idx len) s = .next s) ∧
      (bank.length < min len (256 - idx) → exec (.uploadPalette (some bank) idx len) s = .refused .bankTooShort) ∧
      (0 < min len (256 - idx) → min len (256 - idx) ≤ bank.length →
        ∃ t, exec (.uploadPalette (some bank) idx len) s = .next t ∧
          t.trace = s.trace ++ [.w .regSel s.cfg.regPalIndex, .w .regData (BitVec.ofNat 8 idx),
              .w .regSel s.cfg.regPalData] ++
            ((bank.take (min len (256 - idx))).flatMap
              (fun e => [BitVec.ofNat 8 e.toNat, BitVec.ofNat 8 (e.toNat / 256)])).map (Event.w .regData) ∧
          t.cfg = s.cfg ∧ t.engine = s.engine ∧ t.env = s.env ∧
          (idsDiffer s.cfg →
            (∀ k e, k < min len (256 - idx) → bank[k]? = some e →
              t.port.readPal (2 * (idx + k)) = BitVec.ofNat 8 e.toNat ∧
              t.port.readPal (2 * (idx + k) + 1) = BitVec.ofNat 8 (e.toNat / 256)) ∧
            (∀ a, (a < 2 * idx ∨ 2 * (idx + min len (256 - idx)) ≤ a) → t.port.readPal a = s.port.readPal a) ∧
            t.port = { s.port with
              pal := t.port.pal
              palIndex := BitVec.ofNat 8 (idx + min len (256 - idx))
              palHalf := false
              regSel := s.cfg.regPalData
              regChosen := true }))

/-- LOAD_PALETTE_FROM_SOURCE completes for every source: one that does not open, or whose first read fails, touches no
port; the first chunk fills entries 0..127 in file order; the second, if its read succeeds, entries 128..255, and if it
fails they are as before; the source is closed once (R107, R108; D32; log entries 18 and 23). -/
def Obligations.LoadPaletteKeepsLoadedHalves : Prop :=
  ∀ (src : Source) (s : State), ∃ t, exec (.loadPaletteFromSource src) s = .next t ∧
    t.cfg = s.cfg ∧ t.engine = s.engine ∧ t.env = { s.env with loader := t.env.loader } ∧
    t.port.attr = s.port.attr ∧ t.port.attrSlot = s.port.attrSlot ∧ t.port.attrByte = s.port.attrByte ∧
    t.port.pat = s.port.pat ∧
    (idsDiffer s.cfg → t.port.patSlot = s.port.patSlot ∧ t.port.patPos = s.port.patPos) ∧
    (src.opens = false → t.trace = s.trace ∧ t.port = s.port ∧ t.env.loader = s.env.loader ++ [.openFailed]) ∧
    (src.opens = true → src.reads.head?.join = none →
      t.trace = s.trace ∧ t.port = s.port ∧ t.env.loader = s.env.loader ++ [.opened, .read false, .closed]) ∧
    (∀ c0 more, src.opens = true → src.reads = some c0 :: more →
      (idsDiffer s.cfg → ∀ a, a < 256 → some (t.port.readPal a) = c0.toList[a]?) ∧
      (∀ c1 rest, more = some c1 :: rest →
        (idsDiffer s.cfg → ∀ a, a < 256 → some (t.port.readPal (256 + a)) = c1.toList[a]?) ∧
        t.trace.length = s.trace.length + 518 ∧
        t.env.loader = s.env.loader ++ [.opened, .read true, .read true, .closed]) ∧
      (more.head?.join = none →
        (idsDiffer s.cfg → ∀ a, 256 ≤ a → t.port.readPal a = s.port.readPal a) ∧
        t.trace.length = s.trace.length + 259 ∧
        t.env.loader = s.env.loader ++ [.opened, .read true, .read false, .closed]))

/-- Loading the palette twice from the same well-formed source leaves the coprocessor as loading it once does, and each
load appends the same 518 events (R109, derived by the spec from R106 and R107; log entry 23 for the premise). -/
def Obligations.PaletteLoadIsIdempotent : Prop :=
  ∀ (c0 c1 : Block) (rest : List (Option Block)) (s : State), idsDiffer s.cfg → s.port.pal.wf →
    ∃ t u ev, exec (.loadPaletteFromSource ⟨true, some c0 :: some c1 :: rest⟩) s = .next t ∧
      exec (.loadPaletteFromSource ⟨true, some c0 :: some c1 :: rest⟩) t = .next u ∧ u.port = t.port ∧
      t.port.palIndex = 0#8 ∧ t.port.palHalf = false ∧ t.port.regSel = s.cfg.regPalData ∧
      t.trace = s.trace ++ ev ∧ u.trace = t.trace ++ ev ∧ ev.length = 518

/-! ## The machine as a whole -/

/-- Reset: every sprite unwritten, phase 0, IDLE, the trace empty, nothing written to any store, so that every byte of the
three stores, like every register behind the ports, is the arbitrary constant of Config that stands for it (R127; D25; that
the arbitrary values are these constants is the model's, log entries 2 and 3). That no register has been selected, nothing
is presented and no operation is in progress is said in the model's own fields (log entries 28, 4 and 5). -/
def Obligations.ResetLeavesNothingWritten : Prop :=
  (∀ i, State.reset.sprite i = none) ∧ State.reset.engine.phase = 0#4 ∧ State.reset.engine.seq = .idle ∧
  State.reset.trace = [] ∧ State.reset.port.attr = [] ∧ State.reset.port.pat = [] ∧ State.reset.port.pal = [] ∧
  (∀ a, State.reset.port.readAttr a = Config.resetByte .attr a) ∧
  (∀ a, State.reset.port.readPat a = Config.resetByte .pat a) ∧
  (∀ a, State.reset.port.readPal a = Config.resetByte .pal a) ∧
  State.reset.port.attrSlot = Config.resetAttrSlot % State.reset.cfg.nAttrSlots ∧
  State.reset.port.attrByte = Config.resetAttrByte ∧ State.reset.port.patSlot = Config.resetPatSlot ∧
  State.reset.port.patPos = Config.resetPatPos ∧ State.reset.port.palIndex = Config.resetPalIndex ∧
  State.reset.port.palHalf = Config.resetPalHalf ∧
  State.reset.port.regSel = Config.resetRegSel ∧ State.reset.port.regChosen = false ∧
  State.reset.engine.loop = .none ∧ State.reset.env.inputs = []

/-- The invariant holds right after reset (R7, R14, R15, R18, R21, R33). -/
def Obligations.ResetMeetsInvariant : Prop := State.reset.Inv

/-- Every step keeps the invariant, whatever is presented: the configuration valid, the coprocessor's indexes in range,
its three stores canonical and within their address ranges, every written sprite well-formed, the sequencer legal, and
the trace's record position equal to the hidden byte counter (R7, R15, R18, R21, R22, R33, R95). -/
def Obligations.EveryStepKeepsInvariant : Prop :=
  ∀ s t : State, s.Inv → step s = .next t → t.Inv

/-- When a request is presented first to a machine with nothing in progress and it decodes to i, the step is i executed
once the request is taken from the interface; when nothing is presented the step changes nothing (R66, R75, R128; the
command interface as a queue is the model's, log entries 4 and 6). -/
def Obligations.StepExecutesPresentedInstruction : Prop :=
  ∀ (s : State), s.cfgValid = true → s.engine.loop = .none →
    (∀ q rest i, s.env.inputs = .request q :: rest → decode q = .ok i →
      step s = exec i { s with env := { s.env with inputs := rest } }) ∧
    (s.env.inputs = [] → step s = .next s)

/-- The trace is empty at reset and append-only; a port write appends its own event and nothing else and performs its
port's reaction, and a port read appends its own event (R27, R34). -/
def Obligations.TraceIsAppendOnly : Prop :=
  State.reset.trace = [] ∧
  (∀ (s : State) (p : Port) (v : Byte), portWrite s p v =
    { s with trace := s.trace ++ [.w p v], port := react s.cfg p v s.port }) ∧
  (∀ s : State, s.readLine.trace = s.trace ++ [.r .line s.lineValue] ∧
    s.readData.trace = s.trace ++ [.r .regData s.dataValue.toNat]) ∧
  (∀ s t : State, step s = .next t → ∃ events, t.trace = s.trace ++ events)

/-- The block never cuts a record short: from a trace that has a slot select behind it and whose records are whole, every
step leaves a trace whose records are whole, unless it takes an external writer's port write, which it can only while no
operation is in progress (R131, R133, R81; D6, D14; that an emission is one step is the model's, log entry 5). EMIT_ALL
selects before it emits: it leaves whole records behind a slot select where none has been made yet, too (R135). Nothing is
claimed of an ENC_* commanded before the first slot select, which R135 leaves to the program. -/
def Obligations.StepsKeepRecordsWhole : Prop :=
  (∀ s t : State, (s.engine.loop = .none → ∀ p v, s.env.inputs.head? ≠ some (.portWrite p v)) →
    recordsWhole s.trace → step s = .next t → recordsWhole t.trace) ∧
  ∀ s t : State, tracePos s.trace = .unselected → exec .emitAll s = .next t → recordsWhole t.trace

/-- No step changes the parameters or the number of sprite registers, and none makes a written sprite unwritten (R14,
R28; log entry 1). -/
def Obligations.WrittenSpritesStayWritten : Prop :=
  ∀ s t : State, step s = .next t → t.cfg = s.cfg ∧ t.nSprites = s.nSprites ∧
    ∀ i sp, s.sprite i = some sp → ∃ sp', t.sprite i = some sp'

/-- Each family keeps to its side: the encoder and record operations and EMIT_ALL leave the engine and the pattern, palette
and register side alone; the upload and register operations leave the engine and the attribute side alone; the animation
operations, WAIT_FRAME, FRAME and RUN with their first step, leave every port alone, and all of them but WAIT_FRAME the
trace too, to which WAIT_FRAME appends its read; a further step of a WAIT_FRAME, FRAME or RUN leaves the pattern, palette
and register side alone (R13, R23, R33, R81; the steps of an operation are the model's, log entry 5). -/
def Obligations.FamiliesKeepToTheirSide : Prop :=
  (∀ (i : Instr) (s t : State), exec i s = .next t →
    ((recordOf s.cfg i ≠ none ∨ (∃ v, i = .selectSlot v) ∨ i = .emitAll) →
      t.engine = s.engine ∧
      t.port = { s.port with attr := t.port.attr, attrSlot := t.port.attrSlot, attrByte := t.port.attrByte }) ∧
    (((∃ v, i = .regSelect v) ∨ (∃ v, i = .regWrite v) ∨ i = .regRead ∨ (∃ v, i = .selectPatternSlot v) ∨
        (∃ b, i = .uploadPattern b) ∨ (∃ b n c, i = .uploadPatternSeries b n c) ∨
        (∃ b n c, i = .uploadPalette b n c) ∨ (∃ b, i = .loadPaletteFromSource b)) →
      t.engine = s.engine ∧ t.port.attr = s.port.attr ∧ t.port.attrSlot = s.port.attrSlot ∧
      t.port.attrByte = s.port.attrByte) ∧
    ((∃ k x y vx vy, i = .spawn k x y vx vy) ∨ i = .init ∨ i = .patcycle ∨ (∃ k, i = .hstep k) ∨ (∃ k, i = .vstep k) ∨
        i = .tick ∨ i = .frame ∨ (∃ n, i = .run n) →
      t.port = s.port ∧ t.trace = s.trace) ∧
    (i = .waitFrame → t.port = s.port ∧ ∃ l, t.trace = s.trace ++ [.r .line l])) ∧
  ∀ s t : State, s.engine.loop ≠ .none → step s = .next t →
    t.port = { s.port with attr := t.port.attr, attrSlot := t.port.attrSlot, attrByte := t.port.attrByte }

/-- A configuration that breaks rule R7 is refused, whatever is presented or in progress (R7, R118; D22, D27). -/
def Obligations.BadConfigurationIsRefused : Prop :=
  ∀ s : State,
    (s.nSprites = 0 ∨ 255 < s.cfg.xStart + s.cfg.xStep * (s.nSprites - 1) ∨ 192 < s.cfg.yStart ∨
      s.cfg.patternSet = [] ∨ (∃ k ∈ s.cfg.patternSet, 63 < k.toNat) ∨
      s.cfg.nAttrSlots < s.cfg.attrBase.toNat + s.nSprites) →
    step s = .refused .badConfiguration

/-- An external writer's port write, presented while nothing is in progress, is that port's own event and reaction, in the
middle of a record too, and nothing else: P_SLOT abandons the record and leaves the bytes already stored (R35); P_ATTR
stores the byte at the cursor and moves the cursor as R36 says; P_REGSEL selects (R49); P_PATTERN stores the byte at the
pattern cursor and moves it (R50); P_REGDATA writes the register whose id reg_sel holds (R49, R51), also an id that nothing
has selected since reset (R127); P_LINE takes no write (R33) and is refused (R41; D6, D14, D15, D32). That an external writer
may act, and that P_LINE's write is refused, are the model's choice (log entry 8), as is the mark regChosen that a register
has been selected (log entry 28); where two register ids are equal nothing is said (log entry 23). -/
def Obligations.ExternalWriteReactsAsWritten : Prop :=
  ∀ (s : State) (v : Byte) (rest : List Input), s.cfgValid = true → s.engine.loop = .none →
    (s.env.inputs = .portWrite .slot v :: rest → step s = .next
      { s with
        trace := s.trace ++ [.w .slot v]
        env := { s.env with inputs := rest }
        port := { s.port with attrSlot := v.toNat % s.cfg.nAttrSlots, attrByte := 0 } }) ∧
    (s.env.inputs = .portWrite .attr v :: rest → ∃ t, step s = .next t ∧
      t.engine = s.engine ∧ t.cfg = s.cfg ∧ t.env = { s.env with inputs := rest } ∧ t.trace = s.trace ++ [.w .attr v] ∧
      t.port = { s.port with attr := t.port.attr, attrSlot := t.port.attrSlot, attrByte := t.port.attrByte } ∧
      t.port.readAttr (5 * s.port.attrSlot + s.port.attrByte.val) = v ∧
      (∀ a, a ≠ 5 * s.port.attrSlot + s.port.attrByte.val → t.port.readAttr a = s.port.readAttr a) ∧
      (s.port.attrByte.val < 3 → t.port.attrSlot = s.port.attrSlot ∧ t.port.attrByte.val = s.port.attrByte.val + 1) ∧
      (s.port.attrByte.val = 3 → v.getLsbD 6 = true → t.port.attrSlot = s.port.attrSlot ∧ t.port.attrByte.val = 4) ∧
      ((s.port.attrByte.val = 3 ∧ v.getLsbD 6 = false) ∨ s.port.attrByte.val = 4 →
        t.port.attrSlot = (s.port.attrSlot + 1) % s.cfg.nAttrSlots ∧ t.port.attrByte.val = 0)) ∧
    (s.env.inputs = .portWrite .regSel v :: rest → step s = .next
      { s with
        trace := s.trace ++ [.w .regSel v]
        env := { s.env with inputs := rest }
        port := { s.port with regSel := v, regChosen := true } }) ∧
    (s.env.inputs = .portWrite .regData v :: rest →
      ∃ c : Coproc, step s = .next
        { s with trace := s.trace ++ [.w .regData v], env := { s.env with inputs := rest }, port := c } ∧
        dataWriteLeaves s v c) ∧
    (s.env.inputs = .portWrite .pattern v :: rest → ∃ t, step s = .next t ∧
      t.engine = s.engine ∧ t.cfg = s.cfg ∧ t.env = { s.env with inputs := rest } ∧
      t.trace = s.trace ++ [.w .pattern v] ∧
      t.port = { s.port with pat := t.port.pat, patSlot := t.port.patSlot, patPos := t.port.patPos } ∧
      t.port.readPat (256 * s.port.patSlot.toNat + s.port.patPos.toNat) = v ∧
      (∀ a, a ≠ 256 * s.port.patSlot.toNat + s.port.patPos.toNat → t.port.readPat a = s.port.readPat a) ∧
      (s.port.patPos.toNat < 255 → t.port.patSlot = s.port.patSlot ∧ t.port.patPos.toNat = s.port.patPos.toNat + 1) ∧
      (s.port.patPos.toNat = 255 → t.port.patSlot.toNat = (s.port.patSlot.toNat + 1) % 64 ∧ t.port.patPos = 0#8)) ∧
    (s.env.inputs = .portWrite .line v :: rest → step s = .refused .portNotWritable)
end

