-- ==== Sys2Proof/Laws/State.lean ====
section
/-! SUPPORT. One lemma for each field and each update of the state, all true by unfolding, so that no proof has to unfold
an update. -/

namespace Sys2Proof.Machine

variable (s : State)

/-! `State.record` -/

@[simp] theorem State.record_cfg (e : Event) : (s.record e).cfg = s.cfg := rfl
@[simp] theorem State.record_engine (e : Event) : (s.record e).engine = s.engine := rfl
@[simp] theorem State.record_port (e : Event) : (s.record e).port = s.port := rfl
@[simp] theorem State.record_trace (e : Event) : (s.record e).trace = s.trace ++ [e] := rfl
@[simp] theorem State.record_env (e : Event) : (s.record e).env = s.env := rfl

/-! `State.setSprites` -/

@[simp] theorem State.setSprites_cfg (l : List (Option Sprite)) : (s.setSprites l).cfg = s.cfg := rfl
@[simp] theorem State.setSprites_sprites (l : List (Option Sprite)) : (s.setSprites l).engine.sprites = l := rfl
@[simp] theorem State.setSprites_phase (l : List (Option Sprite)) : (s.setSprites l).engine.phase = s.engine.phase := rfl
@[simp] theorem State.setSprites_seq (l : List (Option Sprite)) : (s.setSprites l).engine.seq = s.engine.seq := rfl
@[simp] theorem State.setSprites_loop (l : List (Option Sprite)) : (s.setSprites l).engine.loop = s.engine.loop := rfl
@[simp] theorem State.setSprites_port (l : List (Option Sprite)) : (s.setSprites l).port = s.port := rfl
@[simp] theorem State.setSprites_trace (l : List (Option Sprite)) : (s.setSprites l).trace = s.trace := rfl
@[simp] theorem State.setSprites_env (l : List (Option Sprite)) : (s.setSprites l).env = s.env := rfl

/-! `State.setSprite` -/

@[simp] theorem State.setSprite_cfg (i : Nat) (sp : Sprite) : (s.setSprite i sp).cfg = s.cfg := rfl
@[simp] theorem State.setSprite_sprites (i : Nat) (sp : Sprite) : (s.setSprite i sp).engine.sprites = s.engine.sprites.set i (some sp) := rfl
@[simp] theorem State.setSprite_phase (i : Nat) (sp : Sprite) : (s.setSprite i sp).engine.phase = s.engine.phase := rfl
@[simp] theorem State.setSprite_seq (i : Nat) (sp : Sprite) : (s.setSprite i sp).engine.seq = s.engine.seq := rfl
@[simp] theorem State.setSprite_loop (i : Nat) (sp : Sprite) : (s.setSprite i sp).engine.loop = s.engine.loop := rfl
@[simp] theorem State.setSprite_port (i : Nat) (sp : Sprite) : (s.setSprite i sp).port = s.port := rfl
@[simp] theorem State.setSprite_trace (i : Nat) (sp : Sprite) : (s.setSprite i sp).trace = s.trace := rfl
@[simp] theorem State.setSprite_env (i : Nat) (sp : Sprite) : (s.setSprite i sp).env = s.env := rfl

/-! `State.setPhase` -/

@[simp] theorem State.setPhase_cfg (p : BitVec 4) : (s.setPhase p).cfg = s.cfg := rfl
@[simp] theorem State.setPhase_sprites (p : BitVec 4) : (s.setPhase p).engine.sprites = s.engine.sprites := rfl
@[simp] theorem State.setPhase_phase (p : BitVec 4) : (s.setPhase p).engine.phase = p := rfl
@[simp] theorem State.setPhase_seq (p : BitVec 4) : (s.setPhase p).engine.seq = s.engine.seq := rfl
@[simp] theorem State.setPhase_loop (p : BitVec 4) : (s.setPhase p).engine.loop = s.engine.loop := rfl
@[simp] theorem State.setPhase_port (p : BitVec 4) : (s.setPhase p).port = s.port := rfl
@[simp] theorem State.setPhase_trace (p : BitVec 4) : (s.setPhase p).trace = s.trace := rfl
@[simp] theorem State.setPhase_env (p : BitVec 4) : (s.setPhase p).env = s.env := rfl

/-! `State.setSeq` -/

@[simp] theorem State.setSeq_cfg (q : Seq) : (s.setSeq q).cfg = s.cfg := rfl
@[simp] theorem State.setSeq_sprites (q : Seq) : (s.setSeq q).engine.sprites = s.engine.sprites := rfl
@[simp] theorem State.setSeq_phase (q : Seq) : (s.setSeq q).engine.phase = s.engine.phase := rfl
@[simp] theorem State.setSeq_seq (q : Seq) : (s.setSeq q).engine.seq = q := rfl
@[simp] theorem State.setSeq_loop (q : Seq) : (s.setSeq q).engine.loop = s.engine.loop := rfl
@[simp] theorem State.setSeq_port (q : Seq) : (s.setSeq q).port = s.port := rfl
@[simp] theorem State.setSeq_trace (q : Seq) : (s.setSeq q).trace = s.trace := rfl
@[simp] theorem State.setSeq_env (q : Seq) : (s.setSeq q).env = s.env := rfl

/-! `State.setLoop` -/

@[simp] theorem State.setLoop_cfg (l : Loop) : (s.setLoop l).cfg = s.cfg := rfl
@[simp] theorem State.setLoop_sprites (l : Loop) : (s.setLoop l).engine.sprites = s.engine.sprites := rfl
@[simp] theorem State.setLoop_phase (l : Loop) : (s.setLoop l).engine.phase = s.engine.phase := rfl
@[simp] theorem State.setLoop_seq (l : Loop) : (s.setLoop l).engine.seq = s.engine.seq := rfl
@[simp] theorem State.setLoop_loop (l : Loop) : (s.setLoop l).engine.loop = l := rfl
@[simp] theorem State.setLoop_port (l : Loop) : (s.setLoop l).port = s.port := rfl
@[simp] theorem State.setLoop_trace (l : Loop) : (s.setLoop l).trace = s.trace := rfl
@[simp] theorem State.setLoop_env (l : Loop) : (s.setLoop l).env = s.env := rfl

/-! `State.loaderEvent` -/

@[simp] theorem State.loaderEvent_cfg (e : LoaderEvent) : (s.loaderEvent e).cfg = s.cfg := rfl
@[simp] theorem State.loaderEvent_engine (e : LoaderEvent) : (s.loaderEvent e).engine = s.engine := rfl
@[simp] theorem State.loaderEvent_port (e : LoaderEvent) : (s.loaderEvent e).port = s.port := rfl
@[simp] theorem State.loaderEvent_trace (e : LoaderEvent) : (s.loaderEvent e).trace = s.trace := rfl
@[simp] theorem State.loaderEvent_env (e : LoaderEvent) : (s.loaderEvent e).env = { s.env with loader := s.env.loader ++ [e] } := rfl

/-! `State.takeInput` -/

@[simp] theorem State.takeInput_cfg : (s.takeInput).cfg = s.cfg := rfl
@[simp] theorem State.takeInput_engine : (s.takeInput).engine = s.engine := rfl
@[simp] theorem State.takeInput_port : (s.takeInput).port = s.port := rfl
@[simp] theorem State.takeInput_trace : (s.takeInput).trace = s.trace := rfl
@[simp] theorem State.takeInput_env : (s.takeInput).env = { s.env with inputs := s.env.inputs.tail } := rfl

/-! `State.readLine` -/

@[simp] theorem State.readLine_cfg : (s.readLine).cfg = s.cfg := rfl
@[simp] theorem State.readLine_engine : (s.readLine).engine = s.engine := rfl
@[simp] theorem State.readLine_port : (s.readLine).port = s.port := rfl
@[simp] theorem State.readLine_trace : (s.readLine).trace = s.trace ++ [.r .line s.lineValue] := rfl
@[simp] theorem State.readLine_env : (s.readLine).env = s.env.dropLine := rfl

/-! `State.readData` -/

@[simp] theorem State.readData_cfg : (s.readData).cfg = s.cfg := rfl
@[simp] theorem State.readData_engine : (s.readData).engine = s.engine := rfl
@[simp] theorem State.readData_port : (s.readData).port = s.port := rfl
@[simp] theorem State.readData_trace : (s.readData).trace = s.trace ++ [.r .regData s.dataValue.toNat] := rfl
@[simp] theorem State.readData_env : (s.readData).env = { s.env.dropData with result := some s.dataValue } := rfl

/-! `portWrite` -/

@[simp] theorem portWrite_cfg (p : Port) (v : Byte) : (portWrite s p v).cfg = s.cfg := rfl
@[simp] theorem portWrite_engine (p : Port) (v : Byte) : (portWrite s p v).engine = s.engine := rfl
@[simp] theorem portWrite_port (p : Port) (v : Byte) : (portWrite s p v).port = react s.cfg p v s.port := rfl
@[simp] theorem portWrite_trace (p : Port) (v : Byte) : (portWrite s p v).trace = s.trace ++ [.w p v] := rfl
@[simp] theorem portWrite_env (p : Port) (v : Byte) : (portWrite s p v).env = s.env := rfl

/-! The size of the register file and the configuration check read the engine and the parameters only. -/

theorem State.nSprites_def : s.nSprites = s.engine.sprites.length := rfl

theorem State.cfgValid_def : s.cfgValid = s.cfg.valid s.engine.sprites.length := rfl

theorem State.allWritten_def : s.allWritten = s.engine.sprites.all Option.isSome := rfl

/-! The reactions, field by field. -/

variable (c : Coproc)

@[simp] theorem reactSlot_attrSlot (cfg : Params) (v : Byte) : (reactSlot cfg v c).attrSlot = v.toNat % cfg.nAttrSlots := rfl
@[simp] theorem reactSlot_attrByte (cfg : Params) (v : Byte) : (reactSlot cfg v c).attrByte = 0 := rfl
@[simp] theorem reactSlot_attr (cfg : Params) (v : Byte) : (reactSlot cfg v c).attr = c.attr := rfl
@[simp] theorem reactSlot_regSel (cfg : Params) (v : Byte) : (reactSlot cfg v c).regSel = c.regSel := rfl
@[simp] theorem reactSlot_regChosen (cfg : Params) (v : Byte) : (reactSlot cfg v c).regChosen = c.regChosen := rfl
@[simp] theorem reactSlot_patSlot (cfg : Params) (v : Byte) : (reactSlot cfg v c).patSlot = c.patSlot := rfl
@[simp] theorem reactSlot_patPos (cfg : Params) (v : Byte) : (reactSlot cfg v c).patPos = c.patPos := rfl
@[simp] theorem reactSlot_pat (cfg : Params) (v : Byte) : (reactSlot cfg v c).pat = c.pat := rfl
@[simp] theorem reactSlot_palIndex (cfg : Params) (v : Byte) : (reactSlot cfg v c).palIndex = c.palIndex := rfl
@[simp] theorem reactSlot_palHalf (cfg : Params) (v : Byte) : (reactSlot cfg v c).palHalf = c.palHalf := rfl
@[simp] theorem reactSlot_pal (cfg : Params) (v : Byte) : (reactSlot cfg v c).pal = c.pal := rfl

@[simp] theorem reactAttr_attrSlot (cfg : Params) (v : Byte) : (reactAttr cfg v c).attrSlot = (nextCursor cfg.nAttrSlots c.attrSlot c.attrByte v).1 := rfl
@[simp] theorem reactAttr_attrByte (cfg : Params) (v : Byte) : (reactAttr cfg v c).attrByte = (nextCursor cfg.nAttrSlots c.attrSlot c.attrByte v).2 := rfl
@[simp] theorem reactAttr_attr (cfg : Params) (v : Byte) : (reactAttr cfg v c).attr = c.attr.write (attrAddr c.attrSlot c.attrByte) v := rfl
@[simp] theorem reactAttr_regSel (cfg : Params) (v : Byte) : (reactAttr cfg v c).regSel = c.regSel := rfl
@[simp] theorem reactAttr_regChosen (cfg : Params) (v : Byte) : (reactAttr cfg v c).regChosen = c.regChosen := rfl
@[simp] theorem reactAttr_patSlot (cfg : Params) (v : Byte) : (reactAttr cfg v c).patSlot = c.patSlot := rfl
@[simp] theorem reactAttr_patPos (cfg : Params) (v : Byte) : (reactAttr cfg v c).patPos = c.patPos := rfl
@[simp] theorem reactAttr_pat (cfg : Params) (v : Byte) : (reactAttr cfg v c).pat = c.pat := rfl
@[simp] theorem reactAttr_palIndex (cfg : Params) (v : Byte) : (reactAttr cfg v c).palIndex = c.palIndex := rfl
@[simp] theorem reactAttr_palHalf (cfg : Params) (v : Byte) : (reactAttr cfg v c).palHalf = c.palHalf := rfl
@[simp] theorem reactAttr_pal (cfg : Params) (v : Byte) : (reactAttr cfg v c).pal = c.pal := rfl

@[simp] theorem reactRegSel_attrSlot (v : Byte) : (reactRegSel v c).attrSlot = c.attrSlot := rfl
@[simp] theorem reactRegSel_attrByte (v : Byte) : (reactRegSel v c).attrByte = c.attrByte := rfl
@[simp] theorem reactRegSel_attr (v : Byte) : (reactRegSel v c).attr = c.attr := rfl
@[simp] theorem reactRegSel_regSel (v : Byte) : (reactRegSel v c).regSel = v := rfl
@[simp] theorem reactRegSel_regChosen (v : Byte) : (reactRegSel v c).regChosen = true := rfl
@[simp] theorem reactRegSel_patSlot (v : Byte) : (reactRegSel v c).patSlot = c.patSlot := rfl
@[simp] theorem reactRegSel_patPos (v : Byte) : (reactRegSel v c).patPos = c.patPos := rfl
@[simp] theorem reactRegSel_pat (v : Byte) : (reactRegSel v c).pat = c.pat := rfl
@[simp] theorem reactRegSel_palIndex (v : Byte) : (reactRegSel v c).palIndex = c.palIndex := rfl
@[simp] theorem reactRegSel_palHalf (v : Byte) : (reactRegSel v c).palHalf = c.palHalf := rfl
@[simp] theorem reactRegSel_pal (v : Byte) : (reactRegSel v c).pal = c.pal := rfl

@[simp] theorem reactPatSlot_attrSlot (v : Byte) : (reactPatSlot v c).attrSlot = c.attrSlot := rfl
@[simp] theorem reactPatSlot_attrByte (v : Byte) : (reactPatSlot v c).attrByte = c.attrByte := rfl
@[simp] theorem reactPatSlot_attr (v : Byte) : (reactPatSlot v c).attr = c.attr := rfl
@[simp] theorem reactPatSlot_regSel (v : Byte) : (reactPatSlot v c).regSel = c.regSel := rfl
@[simp] theorem reactPatSlot_regChosen (v : Byte) : (reactPatSlot v c).regChosen = c.regChosen := rfl
@[simp] theorem reactPatSlot_patSlot (v : Byte) : (reactPatSlot v c).patSlot = v.setWidth 6 := rfl
@[simp] theorem reactPatSlot_patPos (v : Byte) : (reactPatSlot v c).patPos = 0 := rfl
@[simp] theorem reactPatSlot_pat (v : Byte) : (reactPatSlot v c).pat = c.pat := rfl
@[simp] theorem reactPatSlot_palIndex (v : Byte) : (reactPatSlot v c).palIndex = c.palIndex := rfl
@[simp] theorem reactPatSlot_palHalf (v : Byte) : (reactPatSlot v c).palHalf = c.palHalf := rfl
@[simp] theorem reactPatSlot_pal (v : Byte) : (reactPatSlot v c).pal = c.pal := rfl

@[simp] theorem reactPalIndex_attrSlot (v : Byte) : (reactPalIndex v c).attrSlot = c.attrSlot := rfl
@[simp] theorem reactPalIndex_attrByte (v : Byte) : (reactPalIndex v c).attrByte = c.attrByte := rfl
@[simp] theorem reactPalIndex_attr (v : Byte) : (reactPalIndex v c).attr = c.attr := rfl
@[simp] theorem reactPalIndex_regSel (v : Byte) : (reactPalIndex v c).regSel = c.regSel := rfl
@[simp] theorem reactPalIndex_regChosen (v : Byte) : (reactPalIndex v c).regChosen = c.regChosen := rfl
@[simp] theorem reactPalIndex_patSlot (v : Byte) : (reactPalIndex v c).patSlot = c.patSlot := rfl
@[simp] theorem reactPalIndex_patPos (v : Byte) : (reactPalIndex v c).patPos = c.patPos := rfl
@[simp] theorem reactPalIndex_pat (v : Byte) : (reactPalIndex v c).pat = c.pat := rfl
@[simp] theorem reactPalIndex_palIndex (v : Byte) : (reactPalIndex v c).palIndex = v := rfl
@[simp] theorem reactPalIndex_palHalf (v : Byte) : (reactPalIndex v c).palHalf = false := rfl
@[simp] theorem reactPalIndex_pal (v : Byte) : (reactPalIndex v c).pal = c.pal := rfl

@[simp] theorem reactPalData_attrSlot (v : Byte) : (reactPalData v c).attrSlot = c.attrSlot := rfl
@[simp] theorem reactPalData_attrByte (v : Byte) : (reactPalData v c).attrByte = c.attrByte := rfl
@[simp] theorem reactPalData_attr (v : Byte) : (reactPalData v c).attr = c.attr := rfl
@[simp] theorem reactPalData_regSel (v : Byte) : (reactPalData v c).regSel = c.regSel := rfl
@[simp] theorem reactPalData_regChosen (v : Byte) : (reactPalData v c).regChosen = c.regChosen := rfl
@[simp] theorem reactPalData_patSlot (v : Byte) : (reactPalData v c).patSlot = c.patSlot := rfl
@[simp] theorem reactPalData_patPos (v : Byte) : (reactPalData v c).patPos = c.patPos := rfl
@[simp] theorem reactPalData_pat (v : Byte) : (reactPalData v c).pat = c.pat := rfl
@[simp] theorem reactPalData_palIndex (v : Byte) : (reactPalData v c).palIndex = if c.palHalf then c.palIndex + 1 else c.palIndex := rfl
@[simp] theorem reactPalData_palHalf (v : Byte) : (reactPalData v c).palHalf = (!c.palHalf) := rfl
@[simp] theorem reactPalData_pal (v : Byte) : (reactPalData v c).pal = c.pal.write (palAddr c.palIndex c.palHalf) v := rfl

@[simp] theorem reactPattern_attrSlot (v : Byte) : (reactPattern v c).attrSlot = c.attrSlot := rfl
@[simp] theorem reactPattern_attrByte (v : Byte) : (reactPattern v c).attrByte = c.attrByte := rfl
@[simp] theorem reactPattern_attr (v : Byte) : (reactPattern v c).attr = c.attr := rfl
@[simp] theorem reactPattern_regSel (v : Byte) : (reactPattern v c).regSel = c.regSel := rfl
@[simp] theorem reactPattern_regChosen (v : Byte) : (reactPattern v c).regChosen = c.regChosen := rfl
@[simp] theorem reactPattern_patSlot (v : Byte) : (reactPattern v c).patSlot = if c.patPos = 0xFF#8 then c.patSlot + 1 else c.patSlot := rfl
@[simp] theorem reactPattern_patPos (v : Byte) : (reactPattern v c).patPos = c.patPos + 1 := rfl
@[simp] theorem reactPattern_pat (v : Byte) : (reactPattern v c).pat = c.pat.write (patAddr c.patSlot c.patPos) v := rfl
@[simp] theorem reactPattern_palIndex (v : Byte) : (reactPattern v c).palIndex = c.palIndex := rfl
@[simp] theorem reactPattern_palHalf (v : Byte) : (reactPattern v c).palHalf = c.palHalf := rfl
@[simp] theorem reactPattern_pal (v : Byte) : (reactPattern v c).pal = c.pal := rfl

@[simp] theorem react_slot (cfg : Params) (v : Byte) : react cfg .slot v c = reactSlot cfg v c := rfl
@[simp] theorem react_attr (cfg : Params) (v : Byte) : react cfg .attr v c = reactAttr cfg v c := rfl
@[simp] theorem react_line (cfg : Params) (v : Byte) : react cfg .line v c = c := rfl
@[simp] theorem react_regSel (cfg : Params) (v : Byte) : react cfg .regSel v c = reactRegSel v c := rfl
@[simp] theorem react_regData (cfg : Params) (v : Byte) : react cfg .regData v c = reactRegData cfg v c := rfl
@[simp] theorem react_pattern (cfg : Params) (v : Byte) : react cfg .pattern v c = reactPattern v c := rfl

end Sys2Proof.Machine
end

