-- ==== Sys2Proof/Laws/Memory.lean ====
section
/-! SUPPORT. The laws of the stores behind the ports: a read after a write, and that a write keeps the canonical form. -/

namespace Sys2Proof.Machine.Memory

@[simp] theorem written_nil (a : Nat) : Memory.written [] a = none := rfl

theorem written_cons (b : Nat) (w : Byte) (m : Memory) (a : Nat) :
    Memory.written ((b, w) :: m) a = if a = b then some w else Memory.written m a := rfl

/-- The address just written holds the value written. -/
@[simp] theorem written_write_same (m : Memory) (a : Nat) (v : Byte) : (m.write a v).written a = some v := by
  induction m with
  | nil => simp [write, written]
  | cons c m ih =>
    obtain ⟨b, w⟩ := c
    simp only [write]
    split
    · simp [written]
    · split
      · simp [written]
      · next h => simp [written, h, ih]

/-- A write leaves every other address alone. -/
theorem written_write_other (m : Memory) {a a' : Nat} (v : Byte) (h : a' ≠ a) : (m.write a v).written a' = m.written a' := by
  induction m with
  | nil => simp [write, written, h]
  | cons c m ih =>
    obtain ⟨b, w⟩ := c
    simp only [write]
    split
    · simp [written, h]
    · split
      · next hb => subst hb; simp [written, h]
      · simp [written, ih]

theorem written_write (m : Memory) (a a' : Nat) (v : Byte) :
    (m.write a v).written a' = if a' = a then some v else m.written a' := by
  split
  · next h => rw [h, written_write_same]
  · next h => exact written_write_other m v h

/-- The cells after a write are the old ones and the one written. -/
theorem mem_write {m : Memory} {a : Nat} {v : Byte} {c : Host.Cell} (h : c ∈ m.write a v) : c = (a, v) ∨ c ∈ m := by
  induction m with
  | nil => simpa [write] using h
  | cons d m ih =>
    obtain ⟨b, w⟩ := d
    simp only [write] at h
    split at h
    · simpa using h
    · split at h
      · rcases List.mem_cons.1 h with h | h
        · exact .inl h
        · exact .inr (List.mem_cons_of_mem _ h)
      · rcases List.mem_cons.1 h with h | h
        · exact .inr (by simp [h])
        · exact (ih h).imp id (List.mem_cons_of_mem _)

/-- A write keeps the canonical form. -/
theorem write_wf {m : Memory} (a : Nat) (v : Byte) (h : m.wf) : (m.write a v).wf := by
  induction m with
  | nil => simp [write, wf]
  | cons d m ih =>
    obtain ⟨b, w⟩ := d
    obtain ⟨hb, hm⟩ := List.pairwise_cons.1 h
    simp only [write]
    split
    · next hlt =>
      refine List.pairwise_cons.2 ⟨fun c hc => ?_, h⟩
      rcases List.mem_cons.1 hc with rfl | hc
      · exact hlt
      · exact lt_trans hlt (hb c hc)
    · split
      · next heq => subst heq; exact List.pairwise_cons.2 ⟨hb, hm⟩
      · next hnlt hne =>
        refine List.pairwise_cons.2 ⟨fun c hc => ?_, ih hm⟩
        rcases mem_write hc with rfl | hc
        · simp; omega
        · exact hb c hc

/-- A write keeps a bound on the addresses. -/
theorem write_range {m : Memory} {a n : Nat} (v : Byte) (h : ∀ c ∈ m, c.1 < n) (ha : a < n) :
    ∀ c ∈ m.write a v, c.1 < n := by
  intro c hc
  rcases mem_write hc with rfl | hc
  · exact ha
  · exact h c hc

/-- An address below every listed one is unlisted. -/
theorem written_below {m : Memory} {a : Nat} (h : ∀ c ∈ m, a < c.1) : m.written a = none := by
  induction m with
  | nil => rfl
  | cons c m ih =>
    obtain ⟨b, w⟩ := c
    have hb : a < b := h (b, w) (List.mem_cons_self ..)
    rw [written_cons, if_neg (by omega), ih (fun c hc => h c (List.mem_cons_of_mem _ hc))]

/-- The same written bytes are equal lists: what the canonical form is for. -/
theorem ext_of_wf {m n : Memory} (hm : m.wf) (hn : n.wf) (h : ∀ a, m.written a = n.written a) : m = n := by
  induction m generalizing n with
  | nil =>
    cases n with
    | nil => rfl
    | cons c n =>
      have := h c.1
      rw [show c = (c.1, c.2) from rfl, written_cons, if_pos rfl, written_nil] at this
      cases this
  | cons c m ih =>
    obtain ⟨b, w⟩ := c
    cases n with
    | nil =>
      have := h b
      rw [written_cons, if_pos rfl, written_nil] at this
      cases this
    | cons d n =>
      obtain ⟨b', w'⟩ := d
      obtain ⟨hb, hm'⟩ := List.pairwise_cons.1 hm
      obtain ⟨hb', hn'⟩ := List.pairwise_cons.1 hn
      have hbb : b = b' := by
        rcases Nat.lt_trichotomy b b' with hlt | heq | hgt
        · have := h b
          rw [written_cons, if_pos rfl, written_cons, if_neg (by omega),
            written_below (fun c hc => lt_trans hlt (hb' c hc))] at this
          cases this
        · exact heq
        · have := h b'
          rw [written_cons, if_neg (by omega), written_below (fun c hc => lt_trans hgt (hb c hc)), written_cons, if_pos rfl] at this
          cases this
      subst hbb
      have hw : w = w' := by simpa [written_cons] using h b
      subst hw
      congr 1
      refine ih hm' hn' (fun a => ?_)
      by_cases ha : a = b
      · subst ha; rw [written_below (fun c hc => hb c hc), written_below (fun c hc => hb' c hc)]
      · simpa [written_cons, ha] using h a

/-! ## Reading a byte -/

/-- A written address reads as the byte written. -/
theorem read_of_written {m : Memory} {a : Nat} {v : Byte} (b : Bank) (h : m.written a = some v) : m.read b a = v := by
  rw [read, h, Option.getD_some]

/-- An unlisted address reads as the store's byte at reset. -/
theorem read_of_unlisted {m : Memory} {a : Nat} (b : Bank) (h : m.written a = none) : m.read b a = Config.resetByte b a := by
  rw [read, h, Option.getD_none, unlisted]

/-- Where the same has been written the same is read. -/
theorem read_congr {m n : Memory} {a : Nat} (b : Bank) (h : m.written a = n.written a) : m.read b a = n.read b a := by
  rw [read, read, h]

/-- The same, where what is written is a list's entry that exists. -/
theorem some_read {m : Memory} {a : Nat} {o : Option Byte} (b : Bank) (h : m.written a = o) (ho : o.isSome) :
    some (m.read b a) = o := by
  obtain ⟨v, rfl⟩ := Option.isSome_iff_exists.1 ho
  rw [read_of_written b h]

/-- A read of the address just written gives the value written. -/
@[simp] theorem read_write_same (b : Bank) (m : Memory) (a : Nat) (v : Byte) : (m.write a v).read b a = v :=
  read_of_written b (written_write_same m a v)

/-- A write leaves every other address reading as before. -/
theorem read_write_other (b : Bank) (m : Memory) {a a' : Nat} (v : Byte) (h : a' ≠ a) :
    (m.write a v).read b a' = m.read b a' :=
  read_congr b (written_write_other m v h)

end Sys2Proof.Machine.Memory
end

