-- ==== Sys2Proof/Laws/Ops.lean ====
section
/-! SUPPORT. One lemma for each shared operation that says what it can do: port writes one at a time and in runs, record
emission, sprite operations, the sequencer. Provers cite these instead of unfolding the operations. -/

namespace Sys2Proof.Machine

/-! ## Runs of port writes -/

@[simp] theorem portWrites_nil (s : State) (p : Port) : portWrites s p [] = s := rfl

@[simp] theorem portWrites_cons (s : State) (p : Port) (v : Byte) (vs : List Byte) :
    portWrites s p (v :: vs) = portWrites (portWrite s p v) p vs := rfl

theorem portWrites_append (s : State) (p : Port) (us vs : List Byte) :
    portWrites s p (us ++ vs) = portWrites (portWrites s p us) p vs := by simp [portWrites]

@[simp] theorem portWrites_cfg (s : State) (p : Port) (vs : List Byte) : (portWrites s p vs).cfg = s.cfg := by
  induction vs generalizing s with
  | nil => rfl
  | cons v vs ih => simp [ih]

@[simp] theorem portWrites_engine (s : State) (p : Port) (vs : List Byte) : (portWrites s p vs).engine = s.engine := by
  induction vs generalizing s with
  | nil => rfl
  | cons v vs ih => simp [ih]

@[simp] theorem portWrites_env (s : State) (p : Port) (vs : List Byte) : (portWrites s p vs).env = s.env := by
  induction vs generalizing s with
  | nil => rfl
  | cons v vs ih => simp [ih]

/-- A run of writes appends one event a byte, in order. -/
@[simp] theorem portWrites_trace (s : State) (p : Port) (vs : List Byte) :
    (portWrites s p vs).trace = s.trace ++ vs.map (Event.w p) := by
  induction vs generalizing s with
  | nil => simp
  | cons v vs ih => simp [ih]

/-- A run of writes reacts byte by byte. -/
theorem portWrites_port (s : State) (p : Port) (vs : List Byte) :
    (portWrites s p vs).port = vs.foldl (fun c v => react s.cfg p v c) s.port := by
  induction vs generalizing s with
  | nil => rfl
  | cons v vs ih => simp [ih]

/-- A run of writes is its events, its reactions, and nothing else. -/
theorem portWrites_eq (s : State) (p : Port) (vs : List Byte) :
    portWrites s p vs =
      { s with
        trace := s.trace ++ vs.map (Event.w p)
        port := vs.foldl (fun c v => react s.cfg p v c) s.port } := by
  induction vs generalizing s with
  | nil => simp
  | cons v vs ih => simp [ih, portWrite, State.record]

/-! ## Record emission -/

theorem emit_eq (s : State) (bytes : List Byte) : emit s bytes = portWrites s .attr bytes := rfl

@[simp] theorem emit_cfg (s : State) (bytes : List Byte) : (emit s bytes).cfg = s.cfg := by simp [emit]

@[simp] theorem emit_engine (s : State) (bytes : List Byte) : (emit s bytes).engine = s.engine := by simp [emit]

@[simp] theorem emit_env (s : State) (bytes : List Byte) : (emit s bytes).env = s.env := by simp [emit]

@[simp] theorem emit_trace (s : State) (bytes : List Byte) :
    (emit s bytes).trace = s.trace ++ bytes.map (Event.w .attr) := by simp [emit]

/-- The coprocessor after a run of record bytes: only the attribute store and the cursor differ. -/
theorem attrBytes_frame (cfg : Params) (bytes : List Byte) (c : Coproc) :
    bytes.foldl (fun c v => reactAttr cfg v c) c =
      { c with
        attr := (bytes.foldl (fun c v => reactAttr cfg v c) c).attr
        attrSlot := (bytes.foldl (fun c v => reactAttr cfg v c) c).attrSlot
        attrByte := (bytes.foldl (fun c v => reactAttr cfg v c) c).attrByte } := by
  induction bytes generalizing c with
  | nil => rfl
  | cons v vs ih => rw [List.foldl_cons, ih]; rfl

theorem emit_port (s : State) (bytes : List Byte) :
    (emit s bytes).port =
      { s.port with
        attr := (emit s bytes).port.attr
        attrSlot := (emit s bytes).port.attrSlot
        attrByte := (emit s bytes).port.attrByte } := by
  have h : (emit s bytes).port = bytes.foldl (fun c v => reactAttr s.cfg v c) s.port := portWrites_port s .attr bytes
  rw [h]
  exact attrBytes_frame s.cfg bytes s.port

/-- A run of record bytes stores nothing outside the addresses `attrAddrs` computes for it. -/
theorem attrBytes_written_other (cfg : Params) (bytes : List Byte) (c : Coproc) (a : Nat)
    (h : a ∉ attrAddrs cfg.nAttrSlots c.attrSlot c.attrByte bytes) :
    (bytes.foldl (fun c v => reactAttr cfg v c) c).attr.written a = c.attr.written a := by
  induction bytes generalizing c with
  | nil => rfl
  | cons v vs ih =>
    simp only [attrAddrs, List.mem_cons, not_or] at h
    rw [List.foldl_cons, ih (reactAttr cfg v c) h.2, reactAttr_attr, Memory.written_write_other _ _ h.1]

theorem emit_written_other (s : State) (bytes : List Byte) (a : Nat)
    (h : a ∉ attrAddrs s.cfg.nAttrSlots s.port.attrSlot s.port.attrByte bytes) :
    (emit s bytes).port.attr.written a = s.port.attr.written a := by
  have e : (emit s bytes).port = bytes.foldl (fun c v => reactAttr s.cfg v c) s.port := portWrites_port s .attr bytes
  rw [e]
  exact attrBytes_written_other s.cfg bytes s.port a h

/-! ## Operations on sprites -/

/-- What an operation on one sprite can do: go on with that sprite changed, or be refused, for one of two reasons. -/
theorem onSprite_cases (s : State) (i : Nat) (f : Sprite → Sprite) :
    (s.nSprites ≤ i ∧ onSprite s i f = .refused .spriteIndex) ∨
    (s.engine.sprites[i]? = some none ∧ onSprite s i f = .refused .unwrittenSprite) ∨
    (∃ sp, s.engine.sprites[i]? = some (some sp) ∧ onSprite s i f = .next (s.setSprite i (f sp))) := by
  unfold onSprite
  split
  · next h => exact .inl ⟨by simpa [State.nSprites] using h, rfl⟩
  · next h => exact .inr (.inl ⟨h, rfl⟩)
  · next sp h => exact .inr (.inr ⟨sp, h, rfl⟩)

theorem onSprite_written {s : State} {i : Nat} {sp : Sprite} (f : Sprite → Sprite) (h : s.sprite i = some sp) :
    onSprite s i f = .next (s.setSprite i (f sp)) := by
  rcases onSprite_cases s i f with ⟨hi, -⟩ | ⟨hi, -⟩ | ⟨sp', hi, e⟩
  · have : s.engine.sprites[i]? = none := by simpa [State.nSprites] using hi
    simp [State.sprite, this] at h
  · simp [State.sprite, hi] at h
  · have : sp' = sp := by simpa [State.sprite, hi] using h
    rw [e, this]

theorem onAllWritten_written {s : State} (f : State → State) (h : s.allWritten = true) :
    onAllWritten s f = .next (f s) := by simp [onAllWritten, h]

theorem onAllWritten_unwritten {s : State} (f : State → State) (h : s.allWritten = false) :
    onAllWritten s f = .refused .unwrittenSprite := by simp [onAllWritten, h]

theorem onAllWritten_next {s t : State} {f : State → State} (h : onAllWritten s f = .next t) :
    s.allWritten = true ∧ t = f s := by
  unfold onAllWritten at h
  split at h
  · next hw => cases h; exact ⟨hw, rfl⟩
  · cases h

@[simp] theorem hstepSprite_y (sp : Sprite) : (hstepSprite sp).y = sp.y := by unfold hstepSprite; split <;> [rfl; split <;> rfl]

@[simp] theorem hstepSprite_vy (sp : Sprite) : (hstepSprite sp).vy = sp.vy := by
  unfold hstepSprite; split <;> [rfl; split <;> rfl]

@[simp] theorem hstepSprite_pat (sp : Sprite) : (hstepSprite sp).pat = sp.pat := by
  unfold hstepSprite; split <;> [rfl; split <;> rfl]

@[simp] theorem hstepSprite_mir (sp : Sprite) : (hstepSprite sp).mir = mirrorAfter sp := by
  unfold hstepSprite; split <;> [rfl; split <;> rfl]

@[simp] theorem vstepSprite_x (sp : Sprite) : (vstepSprite sp).x = sp.x := by unfold vstepSprite; split <;> [rfl; split <;> rfl]

@[simp] theorem vstepSprite_vx (sp : Sprite) : (vstepSprite sp).vx = sp.vx := by
  unfold vstepSprite; split <;> [rfl; split <;> rfl]

@[simp] theorem vstepSprite_pat (sp : Sprite) : (vstepSprite sp).pat = sp.pat := by
  unfold vstepSprite; split <;> [rfl; split <;> rfl]

@[simp] theorem vstepSprite_mir (sp : Sprite) : (vstepSprite sp).mir = sp.mir := by
  unfold vstepSprite; split <;> [rfl; split <;> rfl]

@[simp] theorem patCycle_cfg (s : State) : (patCycle s).cfg = s.cfg := by unfold patCycle; split <;> rfl

@[simp] theorem patCycle_port (s : State) : (patCycle s).port = s.port := by unfold patCycle; split <;> rfl

@[simp] theorem patCycle_trace (s : State) : (patCycle s).trace = s.trace := by unfold patCycle; split <;> rfl

@[simp] theorem patCycle_env (s : State) : (patCycle s).env = s.env := by unfold patCycle; split <;> rfl

@[simp] theorem patCycle_phase (s : State) : (patCycle s).engine.phase = s.engine.phase + 1 := by unfold patCycle; split <;> rfl

@[simp] theorem patCycle_seq (s : State) : (patCycle s).engine.seq = s.engine.seq := by unfold patCycle; split <;> rfl

@[simp] theorem patCycle_loop (s : State) : (patCycle s).engine.loop = s.engine.loop := by unfold patCycle; split <;> rfl

@[simp] theorem tickAll_cfg (s : State) : (tickAll s).cfg = s.cfg := by simp [tickAll, stepSprites]

@[simp] theorem tickAll_port (s : State) : (tickAll s).port = s.port := by simp [tickAll, stepSprites]

@[simp] theorem tickAll_trace (s : State) : (tickAll s).trace = s.trace := by simp [tickAll, stepSprites]

@[simp] theorem tickAll_env (s : State) : (tickAll s).env = s.env := by simp [tickAll, stepSprites]

@[simp] theorem tickAll_phase (s : State) : (tickAll s).engine.phase = s.engine.phase + 1 := by simp [tickAll, stepSprites]

@[simp] theorem tickAll_seq (s : State) : (tickAll s).engine.seq = s.engine.seq := by simp [tickAll, stepSprites]

@[simp] theorem tickAll_loop (s : State) : (tickAll s).engine.loop = s.engine.loop := by simp [tickAll, stepSprites]

/-! ## Emission of all sprites -/

@[simp] theorem emitSprite_cfg (s : State) (o : Option Sprite) : (emitSprite s o).cfg = s.cfg := by
  cases o <;> simp [emitSprite]

@[simp] theorem emitSprite_engine (s : State) (o : Option Sprite) : (emitSprite s o).engine = s.engine := by
  cases o <;> simp [emitSprite]

@[simp] theorem emitSprite_env (s : State) (o : Option Sprite) : (emitSprite s o).env = s.env := by
  cases o <;> simp [emitSprite]

theorem emitFold_engine (l : List (Option Sprite)) (s : State) : (l.foldl emitSprite s).engine = s.engine := by
  induction l generalizing s with
  | nil => rfl
  | cons o l ih => simp [ih]

theorem emitFold_cfg (l : List (Option Sprite)) (s : State) : (l.foldl emitSprite s).cfg = s.cfg := by
  induction l generalizing s with
  | nil => rfl
  | cons o l ih => simp [ih]

theorem emitFold_env (l : List (Option Sprite)) (s : State) : (l.foldl emitSprite s).env = s.env := by
  induction l generalizing s with
  | nil => rfl
  | cons o l ih => simp [ih]

theorem emitFold_port (l : List (Option Sprite)) (s : State) :
    (l.foldl emitSprite s).port = { s.port with
      attr := (l.foldl emitSprite s).port.attr
      attrSlot := (l.foldl emitSprite s).port.attrSlot
      attrByte := (l.foldl emitSprite s).port.attrByte } := by
  induction l generalizing s with
  | nil => rfl
  | cons o l ih =>
    rw [List.foldl_cons, ih]
    cases o with
    | none => rfl
    | some sp => rw [show (emitSprite s (some sp)).port = _ from emit_port s _]

/-- An emission leaves the pattern, palette and register side alone (R91). -/
theorem emitSprites_port (s : State) :
    (emitSprites s).port = { s.port with
      attr := (emitSprites s).port.attr
      attrSlot := (emitSprites s).port.attrSlot
      attrByte := (emitSprites s).port.attrByte } := by
  unfold emitSprites
  rw [emitFold_port]
  rfl

@[simp] theorem emitSprites_engine (s : State) : (emitSprites s).engine = s.engine := by
  simp [emitSprites, emitFold_engine]

@[simp] theorem emitSprites_cfg (s : State) : (emitSprites s).cfg = s.cfg := by simp [emitSprites, emitFold_cfg]

@[simp] theorem emitSprites_env (s : State) : (emitSprites s).env = s.env := by simp [emitSprites, emitFold_env]

/-! ## The sequencer -/

/-- What the operation in progress can do next, one case for each value of the sequencer. -/
theorem sequencerStep_next {s t : State} (h : sequencerStep s = .next t) :
    (s.engine.seq = .update ∧ s.allWritten = true ∧ t = (tickAll s).setSeq .emit) ∨
    (s.engine.seq = .emit ∧ s.allWritten = true ∧ t = (emitSprites s).setSeq .waitLeave) ∨
    (s.engine.seq = .waitLeave ∧ t = pollLeave s) ∨
    (s.engine.seq = .waitEnter ∧ t = pollEnter s) ∨
    ((s.engine.seq = .idle ∨ s.engine.seq = .halt) ∧ t = s.setLoop .none) := by
  unfold sequencerStep at h
  split at h
  · next hs => obtain ⟨hw, rfl⟩ := onAllWritten_next h; exact .inl ⟨hs, hw, rfl⟩
  · next hs => obtain ⟨hw, rfl⟩ := onAllWritten_next h; exact .inr (.inl ⟨hs, hw, rfl⟩)
  · next hs => cases h; exact .inr (.inr (.inl ⟨hs, rfl⟩))
  · next hs => cases h; exact .inr (.inr (.inr (.inl ⟨hs, rfl⟩)))
  · next hs => cases h; exact .inr (.inr (.inr (.inr ⟨.inl hs, rfl⟩)))
  · next hs => cases h; exact .inr (.inr (.inr (.inr ⟨.inr hs, rfl⟩)))

/-- One poll of the first wait phase (R92): the read, and at most a move to the second. -/
theorem pollLeave_frame (s : State) :
    (pollLeave s).cfg = s.cfg ∧ (pollLeave s).port = s.port ∧ (pollLeave s).engine.sprites = s.engine.sprites ∧
      (pollLeave s).engine.phase = s.engine.phase ∧ (pollLeave s).engine.loop = s.engine.loop ∧
      (pollLeave s).trace = s.trace ++ [.r .line s.lineValue] ∧ (pollLeave s).env = s.env.dropLine ∧
      ((pollLeave s).engine.seq = .waitEnter ∨ (pollLeave s).engine.seq = s.engine.seq) := by
  unfold pollLeave; split <;> simp

/-- The end of a wait changes the sequencer and the operation in progress, nothing else. -/
theorem frameDone_frame (s : State) :
    (frameDone s).cfg = s.cfg ∧ (frameDone s).port = s.port ∧ (frameDone s).engine.sprites = s.engine.sprites ∧
      (frameDone s).engine.phase = s.engine.phase ∧ (frameDone s).trace = s.trace ∧ (frameDone s).env = s.env := by
  unfold frameDone; split <;> simp

/-- One poll of the second wait phase (R92): the read, and at most the end of the wait. -/
theorem pollEnter_frame (s : State) :
    (pollEnter s).cfg = s.cfg ∧ (pollEnter s).port = s.port ∧ (pollEnter s).engine.sprites = s.engine.sprites ∧
      (pollEnter s).engine.phase = s.engine.phase ∧ (pollEnter s).trace = s.trace ++ [.r .line s.lineValue] ∧
      (pollEnter s).env = s.env.dropLine := by
  obtain ⟨a, b, c, d, e, f⟩ := frameDone_frame s.readLine
  unfold pollEnter
  split
  · exact ⟨a, b, c, d, e, f⟩
  · simp

@[simp] theorem dropLine_inputs (e : Env) : e.dropLine.inputs = e.inputs := by unfold Env.dropLine; split <;> rfl

/-- What rule R7 says of a valid configuration, clause by clause. -/
theorem cfgValid_facts {s : State} (h : s.cfgValid = true) :
    1 ≤ s.nSprites ∧ s.cfg.xStart + s.cfg.xStep * (s.nSprites - 1) ≤ 255 ∧ s.cfg.yStart ≤ 192 ∧
      1 ≤ s.cfg.patternSet.length ∧ (∀ k ∈ s.cfg.patternSet, k.toNat < 64) ∧
      s.cfg.attrBase.toNat + s.nSprites ≤ s.cfg.nAttrSlots ∧ 8 ≤ s.cfg.lineW := by
  simp only [State.cfgValid, Params.valid, and_assoc, Bool.and_eq_true, decide_eq_true_eq, List.all_eq_true] at h
  exact h

/-- What a step can do: go on with the operation in progress, or take what is presented. -/
theorem step_next {s t : State} (h : step s = .next t) :
    s.cfgValid = true ∧
      ((s.engine.loop ≠ .none ∧ sequencerStep s = .next t) ∨ (s.engine.loop = .none ∧ fetchStep s = .next t)) := by
  unfold step at h
  split at h
  · next hc =>
    refine ⟨hc, ?_⟩
    split at h
    · next hl => exact .inr ⟨hl, h⟩
    · next hl => exact .inl ⟨by simp [hl], h⟩
    · next hl => exact .inl ⟨by simp [hl], h⟩
    · next b hl => exact .inl ⟨by simp [hl], h⟩
  · cases h

/-- What taking something presented can do. -/
theorem fetchStep_next {s t : State} (h : fetchStep s = .next t) :
    (s.env.inputs = [] ∧ t = s) ∨
    (∃ q rest i, s.env.inputs = .request q :: rest ∧ decode q = .ok i ∧ exec i s.takeInput = .next t) ∨
    (∃ p v rest, s.env.inputs = .portWrite p v :: rest ∧ p ≠ .line ∧ t = portWrite s.takeInput p v) := by
  unfold fetchStep fetch at h
  cases hin : s.env.inputs with
  | nil => simp only [hin] at h; cases h; exact .inl ⟨rfl, rfl⟩
  | cons x rest =>
    cases x with
    | request q =>
      simp only [hin] at h
      cases hd : decode q with
      | error e => simp [hd] at h
      | ok i => simp only [hd] at h; exact .inr (.inl ⟨q, rest, i, rfl, hd, h⟩)
    | portWrite p v =>
      simp only [hin] at h
      refine .inr (.inr ⟨p, v, rest, rfl, ?_⟩)
      cases p <;> simp only [externalWrite] at h
      case line => cases h
      all_goals (cases h; exact ⟨by simp, rfl⟩)

end Sys2Proof.Machine
end

