-- ==== Sys2Proof/Laws/Record.lean ====
section
/-! SUPPORT. What the bytes of a record are as numbers, bit field by bit field (R54 to R60), and that unpacking a packed
byte gives its fields back (R53, R69). -/

namespace Sys2Proof.Machine

set_option maxRecDepth 20000

theorem b2_bits : ∀ (xhi a b c : Bool) (p : Byte),
    ((p <<< 4) ||| bitAt xhi 0 ||| bitAt a 3 ||| bitAt b 2 ||| bitAt c 1).toNat =
      16 * (p.toNat % 16) + 8 * a.toNat + 4 * b.toNat + 2 * c.toNat + xhi.toNat := by decide

theorem b3_bits : ∀ (v e : Bool) (n : Byte),
    ((n &&& 0x3F#8) ||| bitAt v 7 ||| bitAt e 6).toNat = 128 * v.toNat + 64 * e.toNat + n.toNat % 64 := by decide

theorem scale_bits : ∀ a b : BitVec 2,
    ((a.setWidth 8 <<< 3) ||| (b.setWidth 8 <<< 1) : Byte).toNat = 8 * a.toNat + 2 * b.toNat := by decide

theorem packB2_toNat : ∀ (p : BitVec 4) (m n r h : Bool),
    (packB2 p m n r h).toNat = 16 * p.toNat + 8 * m.toNat + 4 * n.toNat + 2 * r.toNat + h.toNat := by decide

theorem packB3_toNat : ∀ (v e : Bool) (s : BitVec 6),
    (packB3 v e s).toNat = 128 * v.toNat + 64 * e.toNat + s.toNat := by decide

/-- Byte 2 of an operand record as a number. -/
theorem b2Of_toNat (r : SpriteRecord) (xhi : Bool) :
    (b2Of r xhi).toNat = 16 * (r.paletteOffset.toNat % 16) + 8 * r.mirrorX.toNat + 4 * r.mirrorY.toNat +
      2 * r.rotate90.toNat + xhi.toNat := b2_bits xhi r.mirrorX r.mirrorY r.rotate90 r.paletteOffset

/-- Byte 3 of an operand record as a number. -/
theorem b3Of_toNat (r : SpriteRecord) (e : Bool) :
    (b3Of r e).toNat = 128 * r.visible.toNat + 64 * e.toNat + r.patternSlot.toNat % 64 :=
  b3_bits r.visible e r.patternSlot

theorem b4Scale_toNat (r : SpriteRecord) : (b4Scale r).toNat = 8 * r.xscale.toNat + 2 * r.yscale.toNat :=
  scale_bits r.xscale r.yscale

/-- The low byte of a 9-bit X as a number. -/
theorem xLow_ofNat (n : Nat) : (xLow (BitVec.ofNat 9 n)).toNat = n % 256 := by
  simp only [xLow, BitVec.extractLsb'_toNat, BitVec.toNat_ofNat, Nat.shiftRight_zero]
  omega

/-- The high bit of a 9-bit X as a number. -/
theorem xHigh_ofNat (n : Nat) : (xHigh (BitVec.ofNat 9 n)).toNat = n % 512 / 256 := by
  have h : (BitVec.ofNat 9 n).toNat = n % 512 := BitVec.toNat_ofNat n 9
  rw [xHigh, BitVec.getLsbD, h, Nat.testBit_eq_decide_div_mod_eq]
  rcases (by omega : n % 512 / 2 ^ 8 = 0 ∨ n % 512 / 2 ^ 8 = 1) with hb | hb <;> rw [hb] <;> simp at hb ⊢ <;> omega

/-- The E bit of byte 3 is the one asked for. -/
@[simp] theorem eBit_b3Of (r : SpriteRecord) (e : Bool) : eBit (b3Of r e) = e := by
  have key : ∀ (v e : Bool) (n : Byte), eBit ((n &&& 0x3F#8) ||| bitAt v 7 ||| bitAt e 6) = e := by decide
  exact key r.visible e r.patternSlot

@[simp] theorem eBit_packB3 : ∀ (v e : Bool) (s : BitVec 6), eBit (packB3 v e s) = e := by decide

/-! ## Unpacking a packed byte

Bits are written `b[k]`, the form simp brings `b.getLsbD k` to. -/

@[simp] theorem packB2_palette : ∀ (p : BitVec 4) (m n r h : Bool), (packB2 p m n r h).extractLsb' 4 4 = p := by decide

@[simp] theorem packB2_bit3 : ∀ (p : BitVec 4) (m n r h : Bool), (packB2 p m n r h)[3] = m := by decide

@[simp] theorem packB2_bit2 : ∀ (p : BitVec 4) (m n r h : Bool), (packB2 p m n r h)[2] = n := by decide

@[simp] theorem packB2_bit1 : ∀ (p : BitVec 4) (m n r h : Bool), (packB2 p m n r h)[1] = r := by decide

@[simp] theorem packB2_bit0 : ∀ (p : BitVec 4) (m n r h : Bool), (packB2 p m n r h)[0] = h := by decide

@[simp] theorem packB3_visible : ∀ (v e : Bool) (s : BitVec 6), (packB3 v e s)[7] = v := by decide

@[simp] theorem packB3_slot : ∀ (v e : Bool) (s : BitVec 6), (packB3 v e s).extractLsb' 0 6 = s := by decide

/-- Byte 2 is its five fields. -/
theorem packB2_unpack : ∀ b : Byte,
    packB2 (b.extractLsb' 4 4) b[3] b[2] b[1] b[0] = b := by decide

/-- Byte 3 is its three fields. -/
theorem packB3_unpack : ∀ b : Byte, packB3 b[7] (eBit b) (b.extractLsb' 0 6) = b := by decide

end Sys2Proof.Machine
end

