-- ==== Sys2Proof/Laws/Sprites.lean ====
section
/-! SUPPORT. What the animation operations do to one sprite register: the step functions keep a sprite well-formed (R95),
and PATCYCLE, TICK and INIT say what they leave in register i. -/

namespace Sys2Proof.Machine

/-! ## Velocities and byte steps -/

theorem dirOf_toInt (d : Dir) : dirOf d.toInt = some d := by cases d <;> rfl

theorem byte_add_one (x : Byte) : BitVec.ofInt 8 ((x.toNat : Int) + 1) = x + 1 := by revert x; decide

theorem byte_sub_one (x : Byte) : BitVec.ofInt 8 ((x.toNat : Int) + -1) = x - 1 := by revert x; decide

theorem newX_eq (sp : Sprite) : newX sp = match sp.vx with | .plus => sp.x + 1 | .minus => sp.x - 1 := by
  unfold newX
  cases sp.vx
  · exact byte_sub_one sp.x
  · exact byte_add_one sp.x

/-! ## Well-formedness is kept (R95) -/

theorem hstepSprite_wf {cfg : Params} {sp : Sprite} (h : sp.wf cfg) : (hstepSprite sp).wf cfg := by
  simpa [Sprite.wf] using h

theorem vstepSprite_wf {cfg : Params} {sp : Sprite} (h : sp.wf cfg) : (vstepSprite sp).wf cfg := by
  refine ⟨?_, by simpa using h.2⟩
  unfold vstepSprite
  split
  · simp [Config.yMax]
  · split
    · simp [Config.yMin]
    · next h1 h2 =>
      simp only [newY, Config.yMax, Config.yMin, BitVec.toNat_ofInt] at h1 h2 ⊢
      omega

theorem spawned_wf {cfg : Params} {x y : Byte} {vx vy : Dir} (hy : y.toNat ≤ Config.yMax)
    (hp : 0 < cfg.patternSet.length) : (spawned x y vx vy).wf cfg := ⟨hy, hp⟩

theorem advance_wf {cfg : Params} {sp : Sprite} (hp : 0 < cfg.patternSet.length) (h : sp.wf cfg) :
    Sprite.wf cfg { sp with pat := (sp.pat + 1) % cfg.patternSet.length } := ⟨h.1, Nat.mod_lt _ hp⟩

/-! ## Register i -/

theorem sprite_lt {s : State} {i : Nat} {sp : Sprite} (h : s.sprite i = some sp) : i < s.nSprites := by
  by_contra hc
  simp [State.sprite, State.nSprites] at h hc
  simp [List.getElem?_eq_none hc] at h

theorem sprite_mem {s : State} {i : Nat} {sp : Sprite} (h : s.sprite i = some sp) : some sp ∈ s.engine.sprites := by
  have := sprite_lt h
  simp only [State.sprite, State.nSprites] at h this
  rw [List.getElem?_eq_getElem this] at h
  exact List.mem_iff_getElem.2 ⟨i, this, by simpa using h⟩

theorem setSprite_sprite {s : State} {i : Nat} {sp : Sprite} (sp' : Sprite) (h : s.sprite i = some sp) :
    (s.setSprite i sp').sprite i = some sp' := by
  have := sprite_lt h
  simp only [State.nSprites] at this
  simp [State.sprite, this]

/-- A register in range that is not written makes `allWritten` false (R14). -/
theorem allWritten_false {s : State} {i : Nat} (hi : i < s.nSprites) (h : s.sprite i = none) : s.allWritten = false := by
  rw [State.nSprites] at hi
  have : s.engine.sprites[i] = none := by simpa [State.sprite, hi] using h
  rw [State.allWritten_def, List.all_eq_false]
  exact ⟨_, List.getElem_mem hi, by simp [this]⟩

theorem allWritten_sprite {s : State} {i : Nat} (h : s.allWritten = true) (hi : i < s.nSprites) :
    ∃ sp, s.sprite i = some sp := by
  cases hs : s.sprite i with
  | some sp => exact ⟨sp, rfl⟩
  | none => rw [allWritten_false hi hs] at h; cases h

@[simp] theorem patCycle_length (s : State) : (patCycle s).engine.sprites.length = s.engine.sprites.length := by
  unfold patCycle; split <;> simp

/-- Register i after PATCYCLE (R86). -/
theorem patCycle_sprite (s : State) (i : Nat) :
    (patCycle s).sprite i = (s.sprite i).map (fun sp =>
      if s.engine.phase.toNat = 15 then { sp with pat := (sp.pat + 1) % s.cfg.patternSet.length } else sp) := by
  have hp : s.engine.phase + 1 = 0#4 ↔ s.engine.phase.toNat = 15 := by
    generalize s.engine.phase = p; revert p; decide
  unfold patCycle
  by_cases h : s.engine.phase.toNat = 15
  · rw [if_pos (hp.2 h)]
    simp only [State.sprite, State.setSprites_sprites, List.getElem?_map, h, if_true]
    cases s.engine.sprites[i]? with
    | none => rfl
    | some o => cases o <;> rfl
  · rw [if_neg (mt hp.1 h)]
    simp only [State.sprite, State.setPhase_sprites, h, if_false, Option.map_id']

@[simp] theorem tickAll_length (s : State) : (tickAll s).engine.sprites.length = s.engine.sprites.length := by
  simp [tickAll, stepSprites]

/-- Register i after TICK (R89). -/
theorem tickAll_sprite (s : State) (i : Nat) :
    (tickAll s).sprite i = ((patCycle s).sprite i).map (fun sp => vstepSprite (hstepSprite sp)) := by
  simp only [tickAll, stepSprites, State.sprite, State.setSprites_sprites, List.getElem?_map]
  cases (patCycle s).engine.sprites[i]? with
  | none => rfl
  | some o => cases o <;> rfl

theorem mapSprites_allWritten (l : List (Option Sprite)) (f : Sprite → Sprite) :
    (l.map (Option.map f)).all Option.isSome = l.all Option.isSome := by
  induction l with
  | nil => rfl
  | cons o l ih => cases o <;> simp [ih]

@[simp] theorem patCycle_allWritten (s : State) : (patCycle s).allWritten = s.allWritten := by
  simp only [State.allWritten_def]
  unfold patCycle
  split
  · exact mapSprites_allWritten _ _
  · rfl

@[simp] theorem tickAll_allWritten (s : State) : (tickAll s).allWritten = s.allWritten := by
  rw [← patCycle_allWritten s, State.allWritten_def, State.allWritten_def]
  exact mapSprites_allWritten _ _

/-! ## INIT (R84, R85) -/

theorem initSprites_length (cfg : Params) (n i : Nat) (e : Env) : (initSprites cfg n i e).1.length = n := by
  induction n generalizing i e with
  | zero => rfl
  | succ n ih => simp [initSprites, ih]

/-- Register k of INIT's file, whatever is drawn. -/
theorem initSprites_get (cfg : Params) {n k : Nat} (i : Nat) (e : Env) (hk : k < n) : ∃ vx vy : Dir,
    (initSprites cfg n i e).1[k]? =
      some (some (spawned (spawnX cfg (i + k)) (BitVec.ofNat 8 cfg.yStart) vx vy)) := by
  induction n generalizing i e k with
  | zero => omega
  | succ n ih =>
    cases k with
    | zero => exact ⟨_, _, rfl⟩
    | succ k =>
      obtain ⟨vx, vy, h⟩ := ih (k := k) (i + 1) e.dropDraw.dropDraw (by omega)
      refine ⟨vx, vy, ?_⟩
      rw [show i + (k + 1) = i + 1 + k by omega, ← h]
      rfl

/-- Drawing changes the draws and the free-value counter, nothing else. -/
theorem dropDraw_eq (e : Env) : e.dropDraw = { e with draws := e.dropDraw.draws, taken := e.dropDraw.taken } := by
  unfold Env.dropDraw; split <;> rfl

theorem initSprites_env (cfg : Params) (n i : Nat) (e : Env) :
    (initSprites cfg n i e).2 =
      { e with draws := (initSprites cfg n i e).2.draws, taken := (initSprites cfg n i e).2.taken } := by
  induction n generalizing i e with
  | zero => rfl
  | succ n ih =>
    simp only [initSprites]
    rw [ih (i + 1) e.dropDraw.dropDraw]
    simp only [Env.mk.injEq, true_and]
    rw [dropDraw_eq e.dropDraw, dropDraw_eq e]
    simp

end Sys2Proof.Machine
end

