-- ==== Sys2Proof/Laws/Invariant.lean ====
section
/-! SUPPORT. What every port write keeps: the coprocessor's indexes in range and its stores canonical (R21, R33), and the
agreement of the trace's record position with the hidden byte counter (R22, R67). Record by record, a whole record brings
both back to byte 0 (R81). -/

namespace Sys2Proof.Machine

/-! ## The coprocessor -/

/-- The clauses of the invariant about the coprocessor, as one statement. -/
structure Coproc.Ok (cfg : Params) (c : Coproc) : Prop where
  slot : c.attrSlot < cfg.nAttrSlots
  attrWf : c.attr.wf
  attrRange : ∀ d ∈ c.attr, d.1 < 5 * cfg.nAttrSlots
  patWf : c.pat.wf
  patRange : ∀ d ∈ c.pat, d.1 < Config.nPatternSlots * Config.patternBlock
  palWf : c.pal.wf
  palRange : ∀ d ∈ c.pal, d.1 < 2 * Config.paletteEntries

theorem State.Inv.port {s : State} (h : s.Inv) : s.port.Ok s.cfg :=
  ⟨h.slot, h.attrWf, h.attrRange, h.patWf, h.patRange, h.palWf, h.palRange⟩

theorem attrAddr_lt {n slot : Nat} (k : Fin 5) (h : slot < n) : attrAddr slot k < 5 * n := by
  have := k.isLt
  unfold attrAddr
  omega

theorem patAddr_lt (p : BitVec 6) (n : Byte) : patAddr p n < Config.nPatternSlots * Config.patternBlock := by
  have := p.isLt
  have := n.isLt
  simp only [patAddr, Config.nPatternSlots, Config.patternBlock]
  omega

theorem palAddr_lt (e : Byte) (high : Bool) : palAddr e high < 2 * Config.paletteEntries := by
  have := e.isLt
  have := Bool.toNat_le high
  simp only [palAddr, Config.paletteEntries]
  omega

theorem nextCursor_slot_lt {n slot : Nat} (k : Fin 5) (v : Byte) (h : slot < n) : (nextCursor n slot k v).1 < n := by
  have hm : (slot + 1) % n < n := Nat.mod_lt _ (by omega)
  unfold nextCursor
  split
  · exact h
  · exact h
  · exact h
  · split
    · exact h
    · exact hm
  · exact hm

/-- The cursor's byte position moves as a reader of the trace expects (R36, R67). -/
theorem nextCursor_byte (n slot : Nat) (k : Fin 5) (v : Byte) : (nextCursor n slot k v).2 = nextByte k v := by
  unfold nextCursor nextByte
  split <;> first | rfl | (split <;> rfl)

theorem reactSlot_ok {cfg : Params} {c : Coproc} (v : Byte) (h : c.Ok cfg) : (reactSlot cfg v c).Ok cfg :=
  { h with slot := Nat.mod_lt _ (Nat.lt_of_le_of_lt (Nat.zero_le _) h.slot) }

theorem reactAttr_ok {cfg : Params} {c : Coproc} (v : Byte) (h : c.Ok cfg) : (reactAttr cfg v c).Ok cfg :=
  { h with
    slot := nextCursor_slot_lt _ v h.slot
    attrWf := Memory.write_wf _ v h.attrWf
    attrRange := Memory.write_range v h.attrRange (attrAddr_lt _ h.slot) }

theorem reactRegSel_ok {cfg : Params} {c : Coproc} (v : Byte) (h : c.Ok cfg) : (reactRegSel v c).Ok cfg := { h with }

theorem reactPatSlot_ok {cfg : Params} {c : Coproc} (v : Byte) (h : c.Ok cfg) : (reactPatSlot v c).Ok cfg := { h with }

theorem reactPalIndex_ok {cfg : Params} {c : Coproc} (v : Byte) (h : c.Ok cfg) : (reactPalIndex v c).Ok cfg := { h with }

theorem reactPalData_ok {cfg : Params} {c : Coproc} (v : Byte) (h : c.Ok cfg) : (reactPalData v c).Ok cfg :=
  { h with
    palWf := Memory.write_wf _ v h.palWf
    palRange := Memory.write_range v h.palRange (palAddr_lt _ _) }

theorem reactPattern_ok {cfg : Params} {c : Coproc} (v : Byte) (h : c.Ok cfg) : (reactPattern v c).Ok cfg :=
  { h with
    patWf := Memory.write_wf _ v h.patWf
    patRange := Memory.write_range v h.patRange (patAddr_lt _ _) }

theorem reactRegData_ok {cfg : Params} {c : Coproc} (v : Byte) (h : c.Ok cfg) : (reactRegData cfg v c).Ok cfg := by
  have h1 : (if c.regSel = cfg.regPatSlot then reactPatSlot v c else c).Ok cfg := by
    split
    · exact reactPatSlot_ok v h
    · exact h
  have h2 : (if c.regSel = cfg.regPalIndex then reactPalIndex v (if c.regSel = cfg.regPatSlot then reactPatSlot v c else c)
      else (if c.regSel = cfg.regPatSlot then reactPatSlot v c else c)).Ok cfg := by
    split
    · exact reactPalIndex_ok v h1
    · exact h1
  dsimp only [reactRegData]
  split
  · exact reactPalData_ok v h2
  · exact h2

theorem react_ok {cfg : Params} {c : Coproc} (p : Port) (v : Byte) (h : c.Ok cfg) : (react cfg p v c).Ok cfg := by
  cases p
  · exact reactSlot_ok v h
  · exact reactAttr_ok v h
  · exact h
  · exact reactRegSel_ok v h
  · exact reactRegData_ok v h
  · exact reactPattern_ok v h

theorem portWrite_ok {s : State} (p : Port) (v : Byte) (h : s.port.Ok s.cfg) :
    (portWrite s p v).port.Ok (portWrite s p v).cfg := react_ok p v h

theorem portWrites_ok {s : State} (p : Port) (vs : List Byte) (h : s.port.Ok s.cfg) :
    (portWrites s p vs).port.Ok (portWrites s p vs).cfg := by
  induction vs generalizing s with
  | nil => exact h
  | cons v vs ih => exact ih (portWrite_ok p v h)

/-! ## The data register leaves the attribute side alone, and the attribute port the rest -/

theorem reactRegData_attr (cfg : Params) (v : Byte) (c : Coproc) :
    (reactRegData cfg v c).attr = c.attr ∧ (reactRegData cfg v c).attrSlot = c.attrSlot ∧
      (reactRegData cfg v c).attrByte = c.attrByte ∧ (reactRegData cfg v c).regSel = c.regSel ∧
      (reactRegData cfg v c).pat = c.pat := by
  dsimp only [reactRegData]
  split <;> split <;> split <;> exact ⟨rfl, rfl, rfl, rfl, rfl⟩

/-- A write to any port but the two of the attribute side leaves the attribute store and its cursor alone (R33). -/
theorem react_attrSide (cfg : Params) {p : Port} (v : Byte) (c : Coproc) (hs : p ≠ .slot) (ha : p ≠ .attr) :
    (react cfg p v c).attr = c.attr ∧ (react cfg p v c).attrSlot = c.attrSlot ∧
      (react cfg p v c).attrByte = c.attrByte := by
  cases p
  · exact absurd rfl hs
  · exact absurd rfl ha
  · exact ⟨rfl, rfl, rfl⟩
  · exact ⟨rfl, rfl, rfl⟩
  · exact ⟨(reactRegData_attr cfg v c).1, (reactRegData_attr cfg v c).2.1, (reactRegData_attr cfg v c).2.2.1⟩
  · exact ⟨rfl, rfl, rfl⟩

theorem portWrites_attrSide (s : State) {p : Port} (vs : List Byte) (hs : p ≠ .slot) (ha : p ≠ .attr) :
    (portWrites s p vs).port.attr = s.port.attr ∧ (portWrites s p vs).port.attrSlot = s.port.attrSlot ∧
      (portWrites s p vs).port.attrByte = s.port.attrByte := by
  induction vs generalizing s with
  | nil => exact ⟨rfl, rfl, rfl⟩
  | cons v vs ih =>
    obtain ⟨h1, h2, h3⟩ := ih (portWrite s p v)
    obtain ⟨g1, g2, g3⟩ := react_attrSide s.cfg v s.port hs ha
    exact ⟨h1.trans g1, h2.trans g2, h3.trans g3⟩

/-! ## The record position -/

@[simp] theorem tracePos_append (T : List Event) (e : Event) : tracePos (T ++ [e]) = (tracePos T).after e := by
  simp [tracePos]

theorem tracePos_append_list (T es : List Event) : tracePos (T ++ es) = es.foldl TracePos.after (tracePos T) := by
  simp [tracePos]

/-- Events of other ports do not move the record position. -/
theorem tracePos_other (T : List Event) {p : Port} (v : Byte) (hs : p ≠ .slot) (ha : p ≠ .attr) :
    tracePos (T ++ [.w p v]) = tracePos T := by
  rw [tracePos_append]
  cases p <;> first | rfl | exact absurd rfl hs | exact absurd rfl ha

theorem tracePos_read (T : List Event) (p : Port) (v : Nat) : tracePos (T ++ [.r p v]) = tracePos T := by
  rw [tracePos_append]
  cases p <;> rfl

theorem tracePos_others (T : List Event) {p : Port} (vs : List Byte) (hs : p ≠ .slot) (ha : p ≠ .attr) :
    tracePos (T ++ vs.map (Event.w p)) = tracePos T := by
  induction vs generalizing T with
  | nil => simp
  | cons v vs ih =>
    have := ih (T ++ [.w p v])
    rw [tracePos_other T v hs ha] at this
    simpa using this

/-- The trace's record position and the hidden byte counter agree. -/
def State.CursorAgrees (s : State) : Prop := ∀ k, tracePos s.trace = .byte k → s.port.attrByte = k

/-- Every port write keeps that agreement (R22, R36, R67). -/
theorem portWrite_cursor {s : State} (p : Port) (v : Byte) (h : s.CursorAgrees) : (portWrite s p v).CursorAgrees := by
  by_cases hs : p = .slot
  · subst hs
    intro k hk
    simp only [portWrite_trace, tracePos_append, TracePos.after] at hk
    have hz : (portWrite s .slot v).port.attrByte = 0 := rfl
    rw [hz]
    split at hk
    · cases hk; rfl
    · split at hk
      · cases hk; rfl
      · cases hk
    · cases hk
  · by_cases ha : p = .attr
    · subst ha
      intro k hk
      simp only [portWrite_trace, tracePos_append, TracePos.after] at hk
      split at hk
      · cases hk
      · next j hj =>
        cases hk
        rw [portWrite_port, react_attr, reactAttr_attrByte, nextCursor_byte, h j hj]
      · cases hk
    · intro k hk
      rw [portWrite_trace, tracePos_other s.trace v hs ha] at hk
      rw [portWrite_port, (react_attrSide s.cfg v s.port hs ha).2.2]
      exact h k hk

theorem portWrites_cursor {s : State} (p : Port) (vs : List Byte) (h : s.CursorAgrees) :
    (portWrites s p vs).CursorAgrees := by
  induction vs generalizing s with
  | nil => exact h
  | cons v vs ih => exact ih (portWrite_cursor p v h)

/-! ## Whole records -/

/-- The bytes of one whole record: four with E clear, or five with E set (R67). -/
def wholeRecord : List Byte → Bool
  | [_, _, _, b3] => !eBit b3
  | [_, _, _, b3, _] => eBit b3
  | _ => false

/-- A whole record after whole records leaves the trace whole. -/
theorem recordsWhole_append {T : List Event} {bytes : List Byte} (h : recordsWhole T) (hb : wholeRecord bytes = true) :
    recordsWhole (T ++ bytes.map (Event.w .attr)) := by
  unfold recordsWhole at h ⊢
  rw [tracePos_append_list, h]
  match bytes, hb with
  | [b0, b1, b2, b3], hb => simp [wholeRecord] at hb; simp [TracePos.after, nextByte, hb]
  | [b0, b1, b2, b3, b4], hb => simp [wholeRecord] at hb; simp [TracePos.after, nextByte, hb]

theorem wholeRecord_encAbs (r : SpriteRecord) : wholeRecord (encAbsBytes r) = true := by simp [encAbsBytes, wholeRecord]

theorem wholeRecord_encExt (r : SpriteRecord) : wholeRecord (encExtBytes r) = true := by
  unfold encExtBytes; split <;> simp [wholeRecord]

theorem wholeRecord_encAnchor (cfg : Params) (r : SpriteRecord) (u : Bool) : wholeRecord (encAnchorBytes cfg r u) = true := by
  simp [encAnchorBytes, wholeRecord]

theorem wholeRecord_encRel (cfg : Params) (r a : SpriteRecord) (dx dy : Int) (p : Bool) :
    wholeRecord (encRelBytes cfg r a dx dy p) = true := by simp [encRelBytes, wholeRecord]

theorem wholeRecord_rec4 (h : RecHead) : wholeRecord (rec4Bytes h) = true := by
  simp [rec4Bytes, packHead, wholeRecord]

theorem wholeRecord_rec5s (h : RecHead) (a b : BitVec 2) : wholeRecord (rec5sBytes h a b) = true := by
  simp [rec5sBytes, packHead, wholeRecord]

theorem wholeRecord_rec5a (h : RecHead) (u : Bool) : wholeRecord (rec5aBytes h u) = true := by
  simp [rec5aBytes, packHead, wholeRecord]

theorem wholeRecord_rec5r (h : RecHead) (t : Bool) : wholeRecord (rec5rBytes h t) = true := by
  simp [rec5rBytes, packHead, wholeRecord]

end Sys2Proof.Machine
end

