-- ==== Sys2Proof/Laws/PerInstr.lean ====
section
/-! SUPPORT. Laws of the instructions as syntax, one lemma for each constructor. -/

namespace Sys2Proof.Laws

/-- The width the opcode table gives an instruction's row: 8 bits of selector for an operation (R66), 8 bits a byte for a
record, four of them or five (R53, R67). -/
def tableWidth : Instr → Nat
  | .selectSlot _ => 8
  | .encAbs _ => 8
  | .encExt _ => 8
  | .encAnchor _ _ => 8
  | .encRel _ _ _ => 8
  | .spawn _ _ _ _ _ => 8
  | .init => 8
  | .patcycle => 8
  | .hstep _ => 8
  | .vstep _ => 8
  | .tick => 8
  | .emitAll => 8
  | .waitFrame => 8
  | .frame => 8
  | .run _ => 8
  | .regSelect _ => 8
  | .regWrite _ => 8
  | .regRead => 8
  | .selectPatternSlot _ => 8
  | .uploadPattern _ => 8
  | .uploadPatternSeries _ _ _ => 8
  | .uploadPalette _ _ _ => 8
  | .loadPaletteFromSource _ => 8
  | .rec4 _ => 32
  | .rec5s _ _ _ => 40
  | .rec5a _ _ => 40
  | .rec5r _ _ => 40

/-- The encoder fills exactly the bits the opcode table numbers for the instruction's row. -/
def TableWidth.Statement (i : Instr) : Prop := (encode i).tableBits = tableWidth i

theorem TableWidth.selectSlot (s : Byte) : TableWidth.Statement (.selectSlot s) := rfl

theorem TableWidth.encAbs (r : SpriteRecord) : TableWidth.Statement (.encAbs r) := rfl

theorem TableWidth.encExt (r : SpriteRecord) : TableWidth.Statement (.encExt r) := rfl

theorem TableWidth.encAnchor (r : SpriteRecord) (u : Bool) : TableWidth.Statement (.encAnchor r u) := rfl

theorem TableWidth.encRel (r : SpriteRecord) (a : SpriteRecord) (p : Bool) : TableWidth.Statement (.encRel r a p) := rfl

theorem TableWidth.spawn (i : Nat) (x : Byte) (y : Byte) (vx : Int) (vy : Int) : TableWidth.Statement (.spawn i x y vx vy) := rfl

theorem TableWidth.init : TableWidth.Statement .init := rfl

theorem TableWidth.patcycle : TableWidth.Statement .patcycle := rfl

theorem TableWidth.hstep (i : Nat) : TableWidth.Statement (.hstep i) := rfl

theorem TableWidth.vstep (i : Nat) : TableWidth.Statement (.vstep i) := rfl

theorem TableWidth.tick : TableWidth.Statement .tick := rfl

theorem TableWidth.emitAll : TableWidth.Statement .emitAll := rfl

theorem TableWidth.waitFrame : TableWidth.Statement .waitFrame := rfl

theorem TableWidth.frame : TableWidth.Statement .frame := rfl

theorem TableWidth.run (n : Budget) : TableWidth.Statement (.run n) := rfl

theorem TableWidth.regSelect (id : Byte) : TableWidth.Statement (.regSelect id) := rfl

theorem TableWidth.regWrite (v : Byte) : TableWidth.Statement (.regWrite v) := rfl

theorem TableWidth.regRead : TableWidth.Statement .regRead := rfl

theorem TableWidth.selectPatternSlot (slot : Byte) : TableWidth.Statement (.selectPatternSlot slot) := rfl

theorem TableWidth.uploadPattern (block : List Byte) : TableWidth.Statement (.uploadPattern block) := rfl

theorem TableWidth.uploadPatternSeries (blocks : Source) (start : Nat) (count : Nat) : TableWidth.Statement (.uploadPatternSeries blocks start count) := rfl

theorem TableWidth.uploadPalette (bank : Option (List Entry)) (idx : Nat) (len : Nat) : TableWidth.Statement (.uploadPalette bank idx len) := rfl

theorem TableWidth.loadPaletteFromSource (source : Source) : TableWidth.Statement (.loadPaletteFromSource source) := rfl

theorem TableWidth.rec4 (h : RecHead) : TableWidth.Statement (.rec4 h) := rfl

theorem TableWidth.rec5s (h : RecHead) (a : BitVec 2) (b : BitVec 2) : TableWidth.Statement (.rec5s h a b) := rfl

theorem TableWidth.rec5a (h : RecHead) (u : Bool) : TableWidth.Statement (.rec5a h u) := rfl

theorem TableWidth.rec5r (h : RecHead) (t : Bool) : TableWidth.Statement (.rec5r h t) := rfl

end Sys2Proof.Laws
end

