-- ==== Sys2Proof/Laws/Traffic.lean ====
section
/-! SUPPORT. What an instruction can do, said once: port traffic that leaves the attribute side alone (uploads and register
accesses), port traffic in general (slot selects and whole records too), or one of the engine's own changes. Whole-machine
claims follow from these cases, instead of from unfolding every meaning. -/

namespace Sys2Proof.Machine

/-- Port traffic that touches neither P_SLOT nor P_ATTR, with the loader's events (R100 to R108). -/
inductive SideTraffic : State → State → Prop where
  | refl (s : State) : SideTraffic s s
  | write {s t : State} (p : Port) (v : Byte) (hs : p ≠ .slot) (ha : p ≠ .attr) :
    SideTraffic (portWrite s p v) t → SideTraffic s t
  | loader {s t : State} (e : LoaderEvent) : SideTraffic (s.loaderEvent e) t → SideTraffic s t
  | readData {s t : State} : SideTraffic s.readData t → SideTraffic s t

namespace SideTraffic

theorem trans {s t u : State} (h : SideTraffic s t) (g : SideTraffic t u) : SideTraffic s u := by
  induction h with
  | refl => exact g
  | write p v hs ha _ ih => exact .write p v hs ha (ih g)
  | loader e _ ih => exact .loader e (ih g)
  | readData _ ih => exact .readData (ih g)

theorem writes (s : State) {p : Port} (vs : List Byte) (hs : p ≠ .slot) (ha : p ≠ .attr) :
    SideTraffic s (portWrites s p vs) := by
  induction vs generalizing s with
  | nil => exact .refl _
  | cons v vs ih => exact .write p v hs ha (ih _)

theorem regSel (s : State) (id : Byte) : SideTraffic s (portWrite s .regSel id) :=
  .write (p := .regSel) id (by decide) (by decide) (.refl _)

theorem regData (s : State) (v : Byte) : SideTraffic s (portWrite s .regData v) :=
  .write (p := .regData) v (by decide) (by decide) (.refl _)

theorem regAccess (s : State) (id v : Byte) : SideTraffic s (regAccess s id v) := (regSel s id).trans (regData _ v)

theorem uploadBlocks (n : Nat) (reads : List (Option Block)) (s : State) : SideTraffic s (uploadBlocks n reads s) := by
  induction n generalizing reads s with
  | zero => exact .refl _
  | succ n ih =>
    match reads with
    | [] => exact .loader _ (.refl _)
    | none :: _ => exact .loader _ (.refl _)
    | some b :: rest =>
      exact .loader _ ((writes (p := .pattern) _ b.toList (by decide) (by decide)).trans (ih rest _))

theorem sendPalette (s : State) (i : Nat) (es : List Entry) : SideTraffic s (sendPalette s i es) :=
  (regAccess s _ _).trans ((regSel _ _).trans (writes (p := .regData) _ _ (by decide) (by decide)))

theorem loadHalves (at_ : List Nat) (reads : List (Option Block)) (s : State) : SideTraffic s (loadHalves at_ reads s) := by
  induction at_ generalizing reads s with
  | nil => cases reads <;> exact .loader _ (.refl _)
  | cons i at_ ih =>
    match reads with
    | [] => exact .loader _ (.loader _ (.refl _))
    | none :: _ => exact .loader _ (.loader _ (.refl _))
    | some b :: rest => exact .loader _ ((sendPalette _ i _).trans (ih rest _))

/-- What side traffic leaves alone, and what it keeps. -/
theorem frame {s t : State} (h : SideTraffic s t) :
    t.cfg = s.cfg ∧ t.engine = s.engine ∧ t.env.inputs = s.env.inputs ∧ t.port.attr = s.port.attr ∧
      t.port.attrSlot = s.port.attrSlot ∧ t.port.attrByte = s.port.attrByte := by
  induction h with
  | refl => exact ⟨rfl, rfl, rfl, rfl, rfl, rfl⟩
  | @write s t p v hs ha _ ih =>
    obtain ⟨a, b, c, d, e, f⟩ := ih
    obtain ⟨x, y, z⟩ := react_attrSide s.cfg v s.port hs ha
    exact ⟨a, b, c, d.trans x, e.trans y, f.trans z⟩
  | loader e _ ih => exact ih
  | @readData s t _ ih =>
    obtain ⟨a, b, c, d, e, f⟩ := ih
    refine ⟨a, b, c.trans ?_, d, e, f⟩
    simp only [State.readData_env, Env.dropData]
    split <;> rfl

theorem trace {s t : State} (h : SideTraffic s t) :
    (∃ es, t.trace = s.trace ++ es) ∧ tracePos t.trace = tracePos s.trace := by
  induction h with
  | refl => exact ⟨⟨[], by simp⟩, rfl⟩
  | @write s t p v hs ha _ ih =>
    obtain ⟨⟨es, h⟩, g⟩ := ih
    exact ⟨⟨_, by rw [h, portWrite_trace, List.append_assoc]⟩, g.trans (tracePos_other s.trace v hs ha)⟩
  | loader e _ ih => exact ih
  | @readData s t _ ih =>
    obtain ⟨⟨es, h⟩, g⟩ := ih
    exact ⟨⟨_, by rw [h, State.readData_trace, List.append_assoc]⟩, g.trans (tracePos_read _ _ _)⟩

theorem ok {s t : State} (h : SideTraffic s t) (hk : s.port.Ok s.cfg) : t.port.Ok t.cfg := by
  induction h with
  | refl => exact hk
  | write p v _ _ _ ih => exact ih (portWrite_ok p v hk)
  | loader e _ ih => exact ih hk
  | readData _ ih => exact ih hk

theorem cursor {s t : State} (h : SideTraffic s t) (hc : s.CursorAgrees) : t.CursorAgrees := by
  intro k hk
  rw [h.trace.2] at hk
  rw [h.frame.2.2.2.2.2]
  exact hc k hk

end SideTraffic

/-- Any port traffic an instruction causes: side traffic, a slot select, a whole record, one after another. -/
inductive PortTraffic : State → State → Prop where
  | side {s t : State} : SideTraffic s t → PortTraffic s t
  | slot (s : State) (v : Byte) : PortTraffic s (portWrite s .slot v)
  | record (s : State) (bytes : List Byte) : wholeRecord bytes = true → PortTraffic s (emit s bytes)
  | trans {s t u : State} : PortTraffic s t → PortTraffic t u → PortTraffic s u

namespace PortTraffic

theorem emitSprites (s : State) : PortTraffic s (emitSprites s) := by
  refine .trans (.slot s s.cfg.attrBase) ?_
  suffices ∀ (l : List (Option Sprite)) (u : State), PortTraffic u (l.foldl emitSprite u) from this _ _
  intro l
  induction l with
  | nil => exact fun u => .side (.refl u)
  | cons o l ih =>
    intro u
    refine .trans ?_ (ih _)
    cases o with
    | none => exact .side (.refl _)
    | some sp => exact .record _ _ (wholeRecord_encExt _)

/-- No port traffic touches the parameters, the engine or the command interface. -/
theorem frame {s t : State} (h : PortTraffic s t) :
    t.cfg = s.cfg ∧ t.engine = s.engine ∧ t.env.inputs = s.env.inputs := by
  induction h with
  | side h => exact ⟨h.frame.1, h.frame.2.1, h.frame.2.2.1⟩
  | slot s v => exact ⟨rfl, rfl, rfl⟩
  | record s b _ => exact ⟨by simp, by simp, by simp⟩
  | trans _ _ i j => exact ⟨j.1.trans i.1, j.2.1.trans i.2.1, j.2.2.trans i.2.2⟩

theorem trace {s t : State} (h : PortTraffic s t) :
    (∃ es, t.trace = s.trace ++ es) ∧ (recordsWhole s.trace → recordsWhole t.trace) := by
  induction h with
  | side h => exact ⟨h.trace.1, fun g => h.trace.2.trans g⟩
  | slot s v =>
    refine ⟨⟨_, rfl⟩, fun g => ?_⟩
    rw [recordsWhole, portWrite_trace, tracePos_append, g]
    rfl
  | record s b h => exact ⟨⟨_, emit_trace s b⟩, fun g => emit_trace s b ▸ recordsWhole_append g h⟩
  | trans _ _ i j =>
    obtain ⟨⟨es, e⟩, f⟩ := i
    obtain ⟨⟨es', e'⟩, f'⟩ := j
    exact ⟨⟨es ++ es', by rw [e', e, List.append_assoc]⟩, fun g => f' (f g)⟩

theorem ok {s t : State} (h : PortTraffic s t) (hk : s.port.Ok s.cfg) : t.port.Ok t.cfg := by
  induction h with
  | side h => exact h.ok hk
  | slot s v => exact portWrite_ok .slot v hk
  | record s b _ => exact portWrites_ok .attr b hk
  | trans _ _ i j => exact j (i hk)

theorem cursor {s t : State} (h : PortTraffic s t) (hc : s.CursorAgrees) : t.CursorAgrees := by
  induction h with
  | side h => exact h.cursor hc
  | slot s v => exact portWrite_cursor .slot v hc
  | record s b _ => exact portWrites_cursor .attr b hc
  | trans _ _ i j => exact j (i hc)

end PortTraffic

/-! ## The cases of an instruction -/

/-- A change of the engine that an animation operation makes, other than by beginning a loop (R83 to R89, R94). -/
inductive EngineChange (s : State) : State → Prop where
  | spawn (k : Nat) (x y : Byte) (vx vy : Dir) : k < s.nSprites → y.toNat ≤ Config.yMax →
    EngineChange s (s.setSprite k (spawned x y vx vy))
  | init : EngineChange s (initAll s)
  | patcycle : EngineChange s (patCycle s)
  | hstep (k : Nat) (sp : Sprite) : s.sprite k = some sp → EngineChange s (s.setSprite k (hstepSprite sp))
  | vstep (k : Nat) (sp : Sprite) : s.sprite k = some sp → EngineChange s (s.setSprite k (vstepSprite sp))
  | tick : EngineChange s (tickAll s)
  | halt : EngineChange s (s.setSeq .halt)

/-- The beginning of a loop: the first poll of a wait, or the tick of a first frame (R92 to R94). -/
inductive LoopBegins (s : State) : State → Prop where
  | wait : LoopBegins s (pollLeave ((s.setLoop .wait).setSeq .waitLeave))
  | frame : s.allWritten = true → LoopBegins s ((tickAll ((s.setLoop .frame).setSeq .update)).setSeq .emit)
  | run (n : Budget) : n ≠ .finite 0 → s.allWritten = true →
    LoopBegins s ((tickAll ((s.setLoop (.run n)).setSeq .update)).setSeq .emit)

/-- What an engine change leaves alone: everything behind the ports, the trace, the loop, and the size of the file. -/
theorem EngineChange.frame {s t : State} (h : EngineChange s t) :
    t.cfg = s.cfg ∧ t.port = s.port ∧ t.trace = s.trace ∧ t.nSprites = s.nSprites ∧
      t.engine.loop = s.engine.loop ∧ t.env.inputs = s.env.inputs ∧
      (t.engine.seq = s.engine.seq ∨ t.engine.seq = .halt) := by
  cases h with
  | init =>
    refine ⟨rfl, rfl, rfl, initSprites_length _ _ _ _, rfl, ?_, .inl rfl⟩
    have h := initSprites_env s.cfg s.nSprites 0 s.env
    exact (congrArg Env.inputs h).trans rfl
  | _ => simp [State.nSprites_def]

/-- What the beginning of a loop leaves alone. -/
theorem LoopBegins.keeps {s t : State} (h : LoopBegins s t) :
    t.cfg = s.cfg ∧ t.port = s.port ∧ t.nSprites = s.nSprites ∧ t.env.inputs = s.env.inputs ∧
      (t.trace = s.trace ∨ ∃ l, t.trace = s.trace ++ [.r .line l]) := by
  cases h with
  | wait =>
    obtain ⟨a, b, c, -, -, f, g, -⟩ := pollLeave_frame ((s.setLoop .wait).setSeq .waitLeave)
    exact ⟨a, b, congrArg List.length c, by rw [g, dropLine_inputs]; rfl, .inr ⟨_, f⟩⟩
  | frame => simp [State.nSprites_def]
  | run => simp [State.nSprites_def]

theorem onSprite_next {s t : State} {k : Nat} {f : Sprite → Sprite} (h : onSprite s k f = .next t) :
    ∃ sp, s.sprite k = some sp ∧ t = s.setSprite k (f sp) := by
  rcases onSprite_cases s k f with ⟨-, e⟩ | ⟨-, e⟩ | ⟨sp, hs, e⟩
  · rw [e] at h; cases h
  · rw [e] at h; cases h
  · rw [e] at h; cases h; exact ⟨sp, by simp [State.sprite, hs], rfl⟩

/-- The first tick of a frame, as FRAME and RUN begin it. -/
theorem beginFrame_next {s t : State} {l : Loop} (h : sequencerStep ((s.setLoop l).setSeq .update) = .next t) :
    s.allWritten = true ∧ t = (tickAll ((s.setLoop l).setSeq .update)).setSeq .emit := by
  rcases sequencerStep_next h with ⟨-, hw, e⟩ | ⟨hs, -⟩ | ⟨hs, -⟩ | ⟨hs, -⟩ | ⟨hs, -⟩
  · exact ⟨hw, e⟩
  · cases hs
  · cases hs
  · cases hs
  · rcases hs with hs | hs <;> cases hs

/-- What an instruction can do when it completes: port traffic, a change of the engine, or the beginning of a loop. -/
theorem exec_next {i : Instr} {s t : State} (h : exec i s = .next t) :
    PortTraffic s t ∨ EngineChange s t ∨ LoopBegins s t := by
  cases i with
  | selectSlot v => cases h; exact .inl (.slot _ _)
  | encAbs r => cases h; exact .inl (.record _ _ (wholeRecord_encAbs _))
  | encExt r => cases h; exact .inl (.record _ _ (wholeRecord_encExt _))
  | encAnchor r u =>
    simp only [exec, execEncAnchor] at h
    split at h
    · cases h; exact .inl (.record _ _ (wholeRecord_encAnchor _ _ _))
    · cases h
    · cases h
  | encRel r a p =>
    simp only [exec, execEncRel] at h
    split at h
    · split at h
      · cases h; exact .inl (.record _ _ (wholeRecord_encRel _ _ _ _ _ _))
      · cases h
    · cases h
    · cases h
  | spawn k x y vx vy =>
    simp only [exec, execSpawn] at h
    split at h
    · cases h
    · split at h
      · cases h
      · next hk hy =>
        split at h
        · cases h; exact .inr (.inl (.spawn k x y _ _ (Nat.lt_of_not_le hk) (Nat.le_of_not_lt hy)))
        · cases h
        · cases h
  | init => cases h; exact .inr (.inl .init)
  | patcycle => obtain ⟨-, rfl⟩ := onAllWritten_next h; exact .inr (.inl .patcycle)
  | hstep k => obtain ⟨sp, hs, rfl⟩ := onSprite_next h; exact .inr (.inl (.hstep k sp hs))
  | vstep k => obtain ⟨sp, hs, rfl⟩ := onSprite_next h; exact .inr (.inl (.vstep k sp hs))
  | tick => obtain ⟨-, rfl⟩ := onAllWritten_next h; exact .inr (.inl .tick)
  | emitAll => obtain ⟨-, rfl⟩ := onAllWritten_next h; exact .inl (.emitSprites s)
  | waitFrame => cases h; exact .inr (.inr .wait)
  | frame => obtain ⟨hw, rfl⟩ := beginFrame_next h; exact .inr (.inr (.frame hw))
  | run n =>
    match n with
    | .finite 0 => obtain ⟨-, rfl⟩ := onAllWritten_next (f := fun u => u.setSeq .halt) h; exact .inr (.inl .halt)
    | .finite (k + 1) => obtain ⟨hw, rfl⟩ := beginFrame_next h; exact .inr (.inr (.run _ (by simp) hw))
    | .infinite => obtain ⟨hw, rfl⟩ := beginFrame_next h; exact .inr (.inr (.run _ (by simp) hw))
  | regSelect v => cases h; exact .inl (.side (.regSel _ _))
  | regWrite v =>
    simp only [exec, execRegWrite] at h
    split at h
    · cases h; exact .inl (.side (.regData _ _))
    · cases h
  | regRead =>
    simp only [exec, execRegRead] at h
    split at h
    · cases h; exact .inl (.side (.readData (.refl _)))
    · cases h
  | selectPatternSlot v => cases h; exact .inl (.side (.regAccess _ _ _))
  | uploadPattern b =>
    simp only [exec, execUploadPattern] at h
    split at h
    · cases h; exact .inl (.side (.writes (p := .pattern) _ _ (by decide) (by decide)))
    · cases h
  | uploadPatternSeries b n c =>
    simp only [exec, execUploadPatternSeries] at h
    split at h
    · cases h; exact .inl (.side (.loader _ (.refl _)))
    · split at h
      · cases h; exact .inl (.side (.loader _ (.loader _ (.refl _))))
      · cases h
        exact .inl (.side (.loader _ ((SideTraffic.regAccess _ _ _).trans
          ((SideTraffic.uploadBlocks _ _ _).trans (.loader _ (.refl _))))))
  | uploadPalette b n l =>
    simp only [exec, execUploadPalette] at h
    split at h
    · cases h; exact .inl (.side (.refl _))
    · split at h
      · cases h; exact .inl (.side (.refl _))
      · split at h
        · cases h
        · cases h; exact .inl (.side (.sendPalette _ _ _))
  | loadPaletteFromSource b =>
    simp only [exec, execLoadPaletteFromSource] at h
    split at h
    · cases h; exact .inl (.side (.loader _ (.refl _)))
    · cases h; exact .inl (.side (.loader _ (.loadHalves _ _ _)))
  | rec4 r => cases h; exact .inl (.record _ _ (wholeRecord_rec4 _))
  | rec5s r a b => cases h; exact .inl (.record _ _ (wholeRecord_rec5s _ _ _))
  | rec5a r u => cases h; exact .inl (.record _ _ (wholeRecord_rec5a _ _))
  | rec5r r t => cases h; exact .inl (.record _ _ (wholeRecord_rec5r _ _))

end Sys2Proof.Machine
end

