-- ==== Sys2Proof/Laws/Run.lean ====
section
/-! SUPPORT. Runs of several steps over the model's own state type, and what a step is in the two situations that a run
passes through: an operation in progress, and an instruction presented to an idle machine. -/

namespace Sys2Proof.Machine

/-- `k` steps, as the host's run takes them. -/
def runSteps : Nat → State → Result
  | 0, s => .next s
  | k + 1, s =>
    match step s with
    | .next t => runSteps k t
    | .fault f => .fault f
    | .refused r => .refused r

theorem core_run_eq (k : Nat) (s : State) : Sys2Proof.core.run k s = runSteps k s := by
  induction k generalizing s with
  | zero => rfl
  | succ k ih =>
    rw [runSteps]
    cases h : step s with
    | next t =>
      have h' : Sys2Proof.core.step s = .next t := h
      simp only [Host.Core.run, h']
      exact ih t
    | fault f => nomatch f
    | refused r =>
      have h' : Sys2Proof.core.step s = .refused r := h
      simp only [Host.Core.run, h']
      rfl

@[simp] theorem runSteps_zero (s : State) : runSteps 0 s = .next s := rfl

theorem runSteps_succ {k : Nat} {s t : State} (h : step s = .next t) : runSteps (k + 1) s = runSteps k t := by
  rw [runSteps, h]

/-- Runs compose. -/
theorem runSteps_add {j : Nat} (k : Nat) {s t : State} (h : runSteps j s = .next t) :
    runSteps (j + k) s = runSteps k t := by
  induction j generalizing s with
  | zero => rw [Nat.zero_add]; cases h; rfl
  | succ j ih =>
    rw [show j + 1 + k = (j + k) + 1 by omega]
    rw [runSteps] at h ⊢
    cases hs : step s with
    | next u => rw [hs] at h; exact ih h
    | fault f => rw [hs] at h; cases h
    | refused r => rw [hs] at h; cases h

/-- While an operation is in progress a step is what it does next (R93). -/
theorem step_inLoop {s : State} (hv : s.cfgValid = true) (hl : s.engine.loop ≠ .none) : step s = sequencerStep s := by
  unfold step
  rw [if_pos hv]
  cases h : s.engine.loop with
  | none => exact absurd h hl
  | wait => rfl
  | frame => rfl
  | run b => rfl

/-- A step of an idle machine runs the instruction presented first. -/
theorem step_presented {s : State} {q : Request} {rest : List Input} {i : Instr} (hv : s.cfgValid = true)
    (hl : s.engine.loop = .none) (hi : s.env.inputs = .request q :: rest) (hd : decode q = .ok i) :
    step s = exec i s.takeInput := by
  simp [step, hv, hl, fetchStep, fetch, hi, hd]

/-! ## Scanline samples -/

theorem lineValue_cons {s : State} {l : Nat} {ls : List Nat} (h : s.env.line = l :: ls) (hl : l < 2 ^ s.cfg.lineW) :
    s.lineValue = l := by simp [State.lineValue, h, Nat.mod_eq_of_lt hl]

theorem dropLine_cons {e : Env} {l : Nat} {ls : List Nat} (h : e.line = l :: ls) : e.dropLine = { e with line := ls } := by
  simp [Env.dropLine, h]

end Sys2Proof.Machine
end

