-- ==== Sys2Proof/Laws/Upload.lean ====
section
/-! SUPPORT. What the adjacent operations' pieces do: a data write to each register, a run of pattern bytes, a run of
palette bytes, and the traffic of one palette upload (R49 to R51, R103 to R107). -/

namespace Sys2Proof.Machine

/-! ## The data register (R49) -/

theorem reactRegData_other {cfg : Params} {c : Coproc} (v : Byte)
    (h1 : c.regSel ≠ cfg.regPatSlot) (h2 : c.regSel ≠ cfg.regPalIndex) (h3 : c.regSel ≠ cfg.regPalData) : reactRegData cfg v c = c := by
  simp [reactRegData, h1, h2, h3]

theorem reactRegData_patSlot {cfg : Params} {c : Coproc} (v : Byte) (hd : idsDiffer cfg)
    (h : c.regSel = cfg.regPatSlot) : reactRegData cfg v c = reactPatSlot v c := by
  simp [reactRegData, h, hd.1, hd.2.1]

theorem reactRegData_palIndex {cfg : Params} {c : Coproc} (v : Byte) (hd : idsDiffer cfg)
    (h : c.regSel = cfg.regPalIndex) : reactRegData cfg v c = reactPalIndex v c := by
  simp [reactRegData, h, hd.1.symm, hd.2.2]

theorem reactRegData_palData {cfg : Params} {c : Coproc} (v : Byte) (hd : idsDiffer cfg)
    (h : c.regSel = cfg.regPalData) : reactRegData cfg v c = reactPalData v c := by
  simp [reactRegData, h, hd.2.1.symm, hd.2.2.symm]

/-- While the palette data register stays selected, a run of data bytes is a run of palette bytes. -/
theorem regDataRun_palData {cfg : Params} (hd : idsDiffer cfg) (vs : List Byte) (c : Coproc)
    (h : c.regSel = cfg.regPalData) :
    vs.foldl (fun c v => reactRegData cfg v c) c = vs.foldl (fun c v => reactPalData v c) c := by
  induction vs generalizing c with
  | nil => rfl
  | cons v vs ih => rw [List.foldl_cons, List.foldl_cons, reactRegData_palData v hd h, ih _ (by simpa using h)]

theorem maskSlot_toNat (v : Byte) : (maskSlot v).toNat = v.toNat % 64 := by revert v; decide

/-! ## Bytes of a word as numbers -/

theorem byte_succ (v : Byte) : (v + 1).toNat = (v.toNat + 1) % 256 := by
  have h : (v + 1#8).toNat = (v.toNat + 1) % 256 := by simp
  exact h

theorem slot_succ (p : BitVec 6) : (p + 1).toNat = (p.toNat + 1) % 64 := by
  have h : (p + 1#6).toNat = (p.toNat + 1) % 64 := by simp
  exact h

/-! ## Pattern bytes (R50) -/

/-- The pattern port's cursor as one number, a byte address of the pattern memory. -/
def patCursor (c : Coproc) : Nat := patAddr c.patSlot c.patPos

theorem patCursor_lt (c : Coproc) : patCursor c < 16384 := patAddr_lt c.patSlot c.patPos

theorem patCursor_step (c : Coproc) (v : Byte) : patCursor (reactPattern v c) = (patCursor c + 1) % 16384 := by
  have h1 := c.patSlot.isLt
  have h2 := c.patPos.isLt
  have h3 := slot_succ c.patSlot
  have h4 := byte_succ c.patPos
  simp only [patCursor, patAddr, reactPattern_patSlot, reactPattern_patPos]
  by_cases h : c.patPos = 0xFF#8
  · have h5 : c.patPos.toNat = 255 := by rw [h]; rfl
    rw [if_pos h]
    omega
  · have h5 : c.patPos.toNat ≠ 255 := fun e => h (BitVec.eq_of_toNat_eq e)
    rw [if_neg h]
    omega

/-- A run of pattern bytes: where each lands, what else is unchanged, and where the cursor ends. -/
theorem patternRun (vs : List Byte) (c : Coproc) (hl : vs.length ≤ 16384) :
    (∀ n, n < vs.length →
      (vs.foldl (fun c v => reactPattern v c) c).pat.written ((patCursor c + n) % 16384) = vs[n]?) ∧
    (∀ a, (∀ n, n < vs.length → a ≠ (patCursor c + n) % 16384) →
      (vs.foldl (fun c v => reactPattern v c) c).pat.written a = c.pat.written a) ∧
    patCursor (vs.foldl (fun c v => reactPattern v c) c) = (patCursor c + vs.length) % 16384 ∧
    vs.foldl (fun c v => reactPattern v c) c =
      { c with
        pat := (vs.foldl (fun c v => reactPattern v c) c).pat
        patSlot := (vs.foldl (fun c v => reactPattern v c) c).patSlot
        patPos := (vs.foldl (fun c v => reactPattern v c) c).patPos } := by
  induction vs generalizing c with
  | nil =>
    have := patCursor_lt c
    refine ⟨by simp, by simp, ?_, rfl⟩
    simp only [List.foldl_nil, List.length_nil]
    omega
  | cons v vs ih =>
    have hlt := patCursor_lt c
    simp only [List.length_cons] at hl
    obtain ⟨a, b, d, e⟩ := ih (reactPattern v c) (by omega)
    rw [patCursor_step] at a b d
    simp only [List.foldl_cons]
    refine ⟨?_, ?_, ?_, ?_⟩
    · intro n hn
      cases n with
      | zero =>
        rw [b _ (fun n hn => by omega), reactPattern_pat, Nat.add_zero, Nat.mod_eq_of_lt hlt]
        exact Memory.written_write_same _ _ _
      | succ n =>
        rw [List.getElem?_cons_succ, ← a n (by simpa using hn)]
        congr 1
        omega
    · intro x hx
      rw [b, reactPattern_pat]
      · refine Memory.written_write_other _ _ ?_
        have := hx 0 (by simp)
        rwa [Nat.add_zero, Nat.mod_eq_of_lt hlt] at this
      · intro n hn
        have := hx (n + 1) (by simpa using hn)
        omega
    · rw [d, List.length_cons]
      omega
    · rw [e]
      rfl

/-! ## Palette bytes (R51) -/

/-- The palette cursor as one number, a byte address of the palette memory. -/
def palCursor (c : Coproc) : Nat := palAddr c.palIndex c.palHalf

theorem palCursor_lt (c : Coproc) : palCursor c < 512 := palAddr_lt c.palIndex c.palHalf

theorem palCursor_step (c : Coproc) (v : Byte) : palCursor (reactPalData v c) = (palCursor c + 1) % 512 := by
  have h1 := c.palIndex.isLt
  have h2 := byte_succ c.palIndex
  simp only [palCursor, palAddr, reactPalData_palIndex, reactPalData_palHalf]
  cases c.palHalf
  · simp only [Bool.false_eq_true, if_false, Bool.not_false, Bool.toNat_true, Bool.toNat_false]
    omega
  · simp only [if_true, Bool.not_true, Bool.toNat_true, Bool.toNat_false]
    omega

/-- A run of palette bytes that does not pass the end: where each lands, what else is unchanged, where the cursor ends,
and that the canonical form is kept. -/
theorem paletteRun (vs : List Byte) (c : Coproc) (hl : palCursor c + vs.length ≤ 512) :
    (∀ n, n < vs.length → (vs.foldl (fun c v => reactPalData v c) c).pal.written (palCursor c + n) = vs[n]?) ∧
    (∀ a, (a < palCursor c ∨ palCursor c + vs.length ≤ a) →
      (vs.foldl (fun c v => reactPalData v c) c).pal.written a = c.pal.written a) ∧
    palCursor (vs.foldl (fun c v => reactPalData v c) c) = (palCursor c + vs.length) % 512 ∧
    vs.foldl (fun c v => reactPalData v c) c =
      { c with
        pal := (vs.foldl (fun c v => reactPalData v c) c).pal
        palIndex := (vs.foldl (fun c v => reactPalData v c) c).palIndex
        palHalf := (vs.foldl (fun c v => reactPalData v c) c).palHalf } ∧
    (c.pal.wf → (vs.foldl (fun c v => reactPalData v c) c).pal.wf) := by
  induction vs generalizing c with
  | nil =>
    have := palCursor_lt c
    refine ⟨by simp, by simp, ?_, rfl, id⟩
    simp only [List.foldl_nil, List.length_nil]
    omega
  | cons v vs ih =>
    have hlt := palCursor_lt c
    have hp : (reactPalData v c).pal = c.pal.write (palCursor c) v := rfl
    simp only [List.length_cons] at hl
    rcases Nat.eq_zero_or_pos vs.length with h0 | h0
    · have hv : vs = [] := List.eq_nil_of_length_eq_zero h0
      subst hv
      simp only [List.foldl_cons, List.foldl_nil, List.length_cons, List.length_nil]
      refine ⟨fun n hn => ?_, fun a ha => ?_, palCursor_step c v, rfl, Memory.write_wf _ _⟩
      · obtain rfl : n = 0 := by omega
        rw [hp, Nat.add_zero]
        exact Memory.written_write_same _ _ _
      · rw [hp]
        exact Memory.written_write_other _ _ (by omega)
    · have hst : palCursor (reactPalData v c) = palCursor c + 1 := by
        rw [palCursor_step, Nat.mod_eq_of_lt (by omega)]
      obtain ⟨a, b, d, e, f⟩ := ih (reactPalData v c) (by rw [hst]; omega)
      rw [hst] at a b d
      simp only [List.foldl_cons]
      refine ⟨fun n hn => ?_, fun x hx => ?_, ?_, ?_, fun h => f (Memory.write_wf _ _ h)⟩
      · cases n with
        | zero => rw [b _ (.inl (by omega)), hp]; exact Memory.written_write_same _ _ _
        | succ n =>
          rw [List.getElem?_cons_succ, ← a n (by simpa using hn)]
          congr 1
          omega
      · simp only [List.length_cons] at hx
        rw [b x (by omega), hp]
        exact Memory.written_write_other _ _ (by omega)
      · rw [d, List.length_cons]
        congr 1
        omega
      · rw [e]
        rfl

/-! ## Entries and their bytes (R39, R106, R107) -/

theorem entryBytes_eq (e : Entry) : entryBytes e = [BitVec.ofNat 8 e.toNat, BitVec.ofNat 8 (e.toNat / 256)] := by
  have h1 : e.extractLsb' 0 8 = BitVec.ofNat 8 e.toNat := by
    apply BitVec.eq_of_toNat_eq
    simp
  have h2 : e.extractLsb' 8 8 = BitVec.ofNat 8 (e.toNat / 256) := by
    apply BitVec.eq_of_toNat_eq
    simp [Nat.shiftRight_eq_div_pow]
  rw [entryBytes, h1, h2]

theorem flatBytes_length (es : List Entry) : (es.flatMap entryBytes).length = 2 * es.length := by
  induction es with
  | nil => rfl
  | cons e es ih =>
    rw [List.flatMap_cons, List.length_append, ih, entryBytes]
    simp only [List.length_cons, List.length_nil]
    omega

/-- Entry k's two bytes stand at 2k and 2k + 1, the low one first. -/
theorem flatBytes_get {es : List Entry} {k : Nat} {e : Entry} (h : es[k]? = some e) :
    (es.flatMap entryBytes)[2 * k]? = some (BitVec.ofNat 8 e.toNat) ∧
      (es.flatMap entryBytes)[2 * k + 1]? = some (BitVec.ofNat 8 (e.toNat / 256)) := by
  induction es generalizing k with
  | nil => simp at h
  | cons x es ih =>
    rw [List.flatMap_cons, entryBytes_eq]
    cases k with
    | zero => simp at h; subst h; simp
    | succ k =>
      have := ih (k := k) (by simpa using h)
      rw [show 2 * (k + 1) = 2 * k + 1 + 1 by omega]
      simpa using this

theorem pair_low (lo hi : Byte) : ((hi.setWidth 16 <<< 8) ||| lo.setWidth 16).extractLsb' 0 8 = lo := by
  ext i h
  have : i < 16 := by omega
  simp [h, this]

theorem pair_high (lo hi : Byte) : ((hi.setWidth 16 <<< 8) ||| lo.setWidth 16).extractLsb' 8 8 = hi := by
  ext i h
  have h2 : 8 + i < 16 := by omega
  simp [h, h2]

/-- Reading little-endian pairs and sending them low byte first gives the file's bytes back. -/
theorem entriesOf_bytes : ∀ l : List Byte, l.length % 2 = 0 →
    (entriesOf l).flatMap entryBytes = l ∧ 2 * (entriesOf l).length = l.length
  | [], _ => by simp [entriesOf]
  | [_], h => by simp at h
  | lo :: hi :: l, h => by
    obtain ⟨h1, h2⟩ := entriesOf_bytes l (by simp only [List.length_cons] at h; omega)
    simp only [entriesOf, List.flatMap_cons, h1, List.length_cons, entryBytes, pair_low, pair_high]
    exact ⟨rfl, by omega⟩

/-- A 256-byte chunk is 128 entries (R107). -/
theorem entriesOf_block (c : Block) :
    (entriesOf c.toList).flatMap entryBytes = c.toList ∧ (entriesOf c.toList).length = 128 := by
  obtain ⟨h1, h2⟩ := entriesOf_bytes c.toList (by simp)
  refine ⟨h1, ?_⟩
  simp only [Vector.length_toList] at h2
  omega

/-! ## One palette upload (R106) -/

theorem sendPalette_trace (s : State) (i : Nat) (es : List Entry) :
    (sendPalette s i es).trace = s.trace ++
      [.w .regSel s.cfg.regPalIndex, .w .regData (BitVec.ofNat 8 i), .w .regSel s.cfg.regPalData] ++
      (es.flatMap entryBytes).map (Event.w .regData) := by
  simp [sendPalette, regAccess]

theorem sendPalette_frame (s : State) (i : Nat) (es : List Entry) :
    (sendPalette s i es).cfg = s.cfg ∧ (sendPalette s i es).engine = s.engine ∧ (sendPalette s i es).env = s.env := by
  simp [sendPalette, regAccess]

/-- Where the entries land, and what else is unchanged behind the ports. -/
theorem sendPalette_port (s : State) (hd : idsDiffer s.cfg) (i : Nat) (es : List Entry) (hi : i < 256)
    (hl : i + es.length ≤ 256) :
    (∀ n, n < 2 * es.length → (sendPalette s i es).port.pal.written (2 * i + n) = (es.flatMap entryBytes)[n]?) ∧
    (∀ a, (a < 2 * i ∨ 2 * (i + es.length) ≤ a) → (sendPalette s i es).port.pal.written a = s.port.pal.written a) ∧
    (sendPalette s i es).port =
      { s.port with
        pal := (sendPalette s i es).port.pal
        palIndex := BitVec.ofNat 8 (i + es.length)
        palHalf := false
        regSel := s.cfg.regPalData, regChosen := true } ∧
    (s.port.pal.wf → (sendPalette s i es).port.pal.wf) := by
  have hlen := flatBytes_length es
  let u := portWrite (regAccess s s.cfg.regPalIndex (BitVec.ofNat 8 i)) .regSel s.cfg.regPalData
  have hu : u.port =
      { s.port with palIndex := BitVec.ofNat 8 i, palHalf := false, regSel := s.cfg.regPalData, regChosen := true } := by
    show reactRegSel _ (reactRegData s.cfg _ (reactRegSel _ s.port)) = _
    rw [reactRegData_palIndex _ hd rfl]
    rfl
  have hp : (sendPalette s i es).port = (es.flatMap entryBytes).foldl (fun c v => reactPalData v c) u.port := by
    rw [← regDataRun_palData hd _ _ (by rw [hu])]
    exact portWrites_port u .regData _
  have hcur : palCursor u.port = 2 * i := by
    rw [hu]
    simp only [palCursor, palAddr, BitVec.toNat_ofNat, Bool.toNat_false]
    omega
  obtain ⟨a, b, c, d, e⟩ := paletteRun (es.flatMap entryBytes) u.port (by rw [hcur, hlen]; omega)
  rw [← hp, hcur, hlen] at c
  rw [← hp] at a b d e
  rw [hcur, hlen] at a b
  have hpal : u.port.pal = s.port.pal := by rw [hu]
  refine ⟨a, fun x hx => by rw [b x (by omega), hpal], ?_, fun h => e (by rw [hpal]; exact h)⟩
  simp only [palCursor, palAddr] at c
  have hlt := (sendPalette s i es).port.palIndex.isLt
  have hh : (sendPalette s i es).port.palHalf = false := by
    cases hh : (sendPalette s i es).port.palHalf
    · rfl
    · rw [hh, Bool.toNat_true] at c
      omega
  have hx : (sendPalette s i es).port.palIndex = BitVec.ofNat 8 (i + es.length) := by
    apply BitVec.eq_of_toNat_eq
    rw [hh, Bool.toNat_false] at c
    rw [BitVec.toNat_ofNat]
    omega
  rw [d, hh, hx, hu]

end Sys2Proof.Machine
end

