-- ==== Sys2Proof/Tests/Slice0.lean ====
section
/-! SUPPORT. The model's own tests: the well-formedness smoke test, words of the opcode table, one-step tests whose
expected results are the vectors of spec/95_test_vectors.md or hand calculation from the numbered rules (the source of each
is in its comment), and a witness for the hypotheses of every statement that has some. -/

namespace Sys2Proof.Machine

/-! ## Helpers -/

/-- Everything behind the ports at a known value; no register selected. -/
def testPort : Coproc where
  attrSlot := 0
  attrByte := 0
  attr := []
  regSel := 0#8
  regChosen := false
  patSlot := 0#6
  patPos := 0#8
  pat := []
  palIndex := 0#8
  palHalf := false
  pal := []

/-- An idle machine with the given sprites. -/
def machine (sprites : List (Option Sprite)) (phase : BitVec 4) : State :=
  { State.reset with port := testPort, engine := { sprites := sprites, phase := phase, seq := .idle, loop := .none } }

/-- One sprite. -/
def one (sp : Sprite) : State := machine [some sp] 0#4

/-- Ten unwritten sprites. -/
def fresh : State := machine (List.replicate 10 none) 0#4

/-- A sprite in the middle of the screen. -/
def midSprite : Sprite := ⟨100#8, 50#8, .plus, .minus, 0, false⟩

def atCursor (slot : Nat) (k : Fin 5) (s : State) : State := { s with port := { s.port with attrSlot := slot, attrByte := k } }

def selected (id : Byte) (s : State) : State := { s with port := { s.port with regSel := id, regChosen := true } }

def presenting (inputs : List Input) (s : State) : State := { s with env := { s.env with inputs := inputs } }

def withLine (line : List Nat) (s : State) : State := { s with env := { s.env with line := line } }

def inLoop (seq : Seq) (loop : Loop) (s : State) : State := { s with engine := { s.engine with seq := seq, loop := loop } }

/-- The state after an instruction that completes. -/
def after (i : Instr) (s : State) : Option State :=
  match exec i s with
  | .next t => some t
  | .fault _ => none
  | .refused _ => none

/-- Why an instruction is refused, if it is. -/
def refusal (i : Instr) (s : State) : Option Refusal :=
  match exec i s with
  | .next _ => none
  | .fault _ => none
  | .refused r => some r

/-- The events an instruction appends. -/
def events (i : Instr) (s : State) : Option (List Event) := (after i s).map (fun t => t.trace.drop s.trace.length)

def attrEvents (bytes : List Byte) : List Event := bytes.map (Event.w .attr)

def spriteAfter (i : Instr) (s : State) (k : Nat) : Option Sprite := (after i s).bind (fun t => t.sprite k)

def rec0 : SpriteRecord := SpriteRecord.default

/-- A block of one repeated byte. -/
def blockOf (v : Byte) : Block := Vector.replicate 256 v

/-! ## Well-formedness smoke test -/

/-- One ill-formed term for each check of Instr.wf, each refused (R72, R73, R83, R104, R106, R53). -/
theorem test_wf_refuses :
    Instr.wf (.encAnchor rec0 false) = false ∧
    Instr.wf (.encRel rec0 rec0 false) = false ∧
    Instr.wf (.encRel { rec0 with anchorMode := .extendedAnchor } rec0 false) = false ∧
    Instr.wf (.encRel { rec0 with anchorMode := .relativeToAnchor 128 0 } rec0 false) = false ∧
    Instr.wf (.encRel { rec0 with anchorMode := .relativeToAnchor 0 (-129) } rec0 false) = false ∧
    Instr.wf (.spawn 0 0#8 193#8 1 1) = false ∧
    Instr.wf (.spawn 0 0#8 0#8 0 1) = false ∧
    Instr.wf (.spawn 0 0#8 0#8 1 2) = false ∧
    Instr.wf (.uploadPattern (List.replicate 255 0#8)) = false ∧
    Instr.wf (.uploadPalette (some [0x01FF#16]) 0 2) = false ∧
    Instr.wf (.rec5s ⟨0#8, 0#8, 0#4, false, false, false, false, true, 0#6⟩ 0#2 0#2) = false := by decide +kernel

/-- A bank longer than a palette is no PaletteBank (R30). -/
theorem test_wf_refuses_long_bank : Instr.wf (.uploadPalette (some (List.replicate 257 0#16)) 0 1) = false := by decide +kernel

/-! ## Decoding: each constructor's word, from the tables of R66 and R53 -/

/-- Selectors 0000_0000 to 0000_0100 (R66). -/
theorem test_decode_encoder :
    decodeTableWord 8 0b00000000 = some (.selectSlot 0#8) ∧
    decodeTableWord 8 0b00000001 = some (.encAbs SpriteRecord.zero) ∧
    decodeTableWord 8 0b00000010 = some (.encExt SpriteRecord.zero) ∧
    decodeTableWord 8 0b00000011 = some (.encAnchor { SpriteRecord.zero with anchorMode := .extendedAnchor } false) ∧
    decodeTableWord 8 0b00000100 =
      some (.encRel { SpriteRecord.zero with anchorMode := .relativeToAnchor 0 0 } SpriteRecord.zero false) := by decide

/-- Selectors 0001_0000 to 0001_1001 (R66). -/
theorem test_decode_animation :
    decodeTableWord 8 0b00010000 = some (.spawn 0 0#8 0#8 1 1) ∧ decodeTableWord 8 0b00010001 = some .init ∧
    decodeTableWord 8 0b00010010 = some .patcycle ∧ decodeTableWord 8 0b00010011 = some (.hstep 0) ∧
    decodeTableWord 8 0b00010100 = some (.vstep 0) ∧ decodeTableWord 8 0b00010101 = some .tick ∧
    decodeTableWord 8 0b00010110 = some .emitAll ∧ decodeTableWord 8 0b00010111 = some .waitFrame ∧
    decodeTableWord 8 0b00011000 = some .frame ∧ decodeTableWord 8 0b00011001 = some (.run (.finite 0)) := by decide

/-- Selectors 0010_0000 to 0010_0111 (R66), and the first unassigned one after them (R74). -/
theorem test_decode_adjacent :
    decodeTableWord 8 0b00100000 = some (.regSelect 0#8) ∧ decodeTableWord 8 0b00100001 = some (.regWrite 0#8) ∧
    decodeTableWord 8 0b00100010 = some .regRead ∧ decodeTableWord 8 0b00100011 = some (.selectPatternSlot 0#8) ∧
    decodeTableWord 8 0b00100100 = some (.uploadPattern (List.replicate 256 0#8)) ∧
    decodeTableWord 8 0b00100101 = some (.uploadPatternSeries ⟨false, []⟩ 0 0) ∧
    decodeTableWord 8 0b00100110 = some (.uploadPalette none 0 0) ∧
    decodeTableWord 8 0b00100111 = some (.loadPaletteFromSource ⟨false, []⟩) ∧
    decodeTableWord 8 0b00101000 = none := by decide +kernel

/-- The record formats bit by bit: xxxxxxxx yyyyyyyy ppppmnrh vesssssss, then the fifth byte (R53; the operand values of
vectors 2.1, 2.2, 2.3 and 2.4). -/
theorem test_decode_records :
    decodeTableWord 32 0b00101100_01100100_00111001_10000101 =
      some (.rec4 ⟨44#8, 100#8, 3#4, true, false, false, true, true, 5#6⟩) ∧
    decodeTableWord 40 0b10000100_01010010_00100000_01000111_00000100 =
      some (.rec5s ⟨132#8, 82#8, 2#4, false, false, false, false, false, 7#6⟩ 0#2 2#2) ∧
    decodeTableWord 40 0b11111111_11111111_11111111_01111111_00000000 =
      some (.rec5a ⟨255#8, 255#8, 15#4, true, true, true, true, false, 63#6⟩ false) ∧
    decodeTableWord 40 0b10000000_01111111_00011001_11000001_01000001 =
      some (.rec5r ⟨128#8, 127#8, 1#4, true, false, false, true, true, 1#6⟩ true) := by decide

/-- A fifth byte no format has, and a length that the E bit contradicts, are refused (R67, R68). -/
theorem test_decode_refuses_records :
    decodeTableWord 40 0x000000C080 = none ∧ decodeTableWord 40 0x0000008000 = none ∧
    decode (.record [0x00#8, 0x00#8, 0x00#8, 0xC0#8]) = .error (.recordLength 4) := by decide

/-- The field view of the stored record of vector 2.5, `10 70 11 CA 20`. -/
theorem test_view_anchor : viewRecord 0x10#8 0x70#8 0x11#8 0xCA#8 0x20#8 =
    ⟨272#9, 112#8, 1#4, false, false, false, true, true, 10#6, .plain 0#2 0#2 true⟩ := by decide

/-! ## Reset and memory -/

/-- The memories of the reset state have the canonical form. -/
theorem test_reset_memory_wf :
    State.reset.port.attr.wf ∧ State.reset.port.pat.wf ∧ State.reset.port.pal.wf := by decide

/-! ## One step of each instruction -/

/-- Vector 2.5, `SELECT_SLOT 130`. -/
theorem test_select_slot : (after (.selectSlot 0x82#8) (atCursor 7 3 fresh)).map (fun t =>
    (t.trace, t.port.attrSlot, t.port.attrByte)) = some ([.w .slot 0x82#8], 2, 0) := by decide

/-- Vector 2.1, second row. -/
theorem test_enc_abs : events (.encAbs { rec0 with
    x := 300, y := 100#8, patternSlot := 5#8, paletteOffset := 3#8, mirrorX := true }) fresh =
    some (attrEvents [0x2C#8, 0x64#8, 0x39#8, 0x85#8]) := by decide

/-- Vector 2.1, fifth row: the masks of R63 and R64. -/
theorem test_enc_abs_masks : events (.encAbs { rec0 with
    x := 10, y := 20#8, patternSlot := 0x45#8, paletteOffset := 0x1F#8, rotate90 := true }) fresh =
    some (attrEvents [0x0A#8, 0x14#8, 0xF2#8, 0x85#8]) := by decide

/-- Vector 2.2: x = 480 wraps to 0, y = 224 loses its ninth bit. -/
theorem test_enc_ext_wraps : events (.encExt { rec0 with x := 480, y := 224#8 }) fresh =
    some (attrEvents [0x00#8, 0x00#8, 0x00#8, 0x80#8]) := by decide

/-- Vector 2.2, scale table, fourth row. -/
theorem test_enc_ext_scaled : events (.encExt { rec0 with
    x := 100, y := 50#8, patternSlot := 7#8, paletteOffset := 2#8, yscale := 2#2, visible := false }) fresh =
    some (attrEvents [0x84#8, 0x52#8, 0x20#8, 0x47#8, 0x04#8]) := by decide

/-- Vector 2.3, third row. -/
theorem test_enc_anchor : events (.encAnchor { rec0 with
    x := 240, y := 80#8, patternSlot := 10#8, paletteOffset := 1#8, anchorMode := .extendedAnchor } true) fresh =
    some (attrEvents [0x10#8, 0x70#8, 0x11#8, 0xCA#8, 0x20#8]) := by decide

/-- Vector 2.4, third row: the delta extremes, the high bit from the anchor. -/
theorem test_enc_rel : events (.encRel { rec0 with
    patternSlot := 1#8, paletteOffset := 1#8, mirrorX := true, anchorMode := .relativeToAnchor (-128) 127 }
    { rec0 with x := 240 } true) fresh =
    some (attrEvents [0x80#8, 0x7F#8, 0x19#8, 0xC1#8, 0x41#8]) := by decide

/-- Vector 2.4, the paragraph on REL_XHI_MODE = delta: dx = -1 gives high bit 0 with any anchor. -/
theorem test_enc_rel_delta_mode : events (.encRel { rec0 with
    patternSlot := 63#8, paletteOffset := 15#8, anchorMode := .relativeToAnchor (-1) (-1) } { rec0 with x := 224 } true)
    { fresh with cfg := { fresh.cfg with relXhiMode := .delta } } =
    some (attrEvents [0xFF#8, 0xFF#8, 0xF0#8, 0xFF#8, 0x41#8]) := by decide

/-- Vector 2.5, third row: slot 127 is the last of 128, so the next record goes to slot 0. -/
theorem test_rec4_wraps_slot : (after (.rec4 ⟨1#8, 2#8, 0#4, false, false, false, false, true, 3#6⟩)
    (atCursor 127 0 fresh)).map (fun t => (t.port.attr, t.port.attrSlot, t.port.attrByte)) =
    some ([(635, 0x01#8), (636, 0x02#8), (637, 0x00#8), (638, 0x83#8)], 0, 0) := by decide

/-- Vector 2.2, scale table, second row, as a whole record: a fifth byte, then the next slot. -/
theorem test_rec5s : (after (.rec5s ⟨0x84#8, 0x52#8, 2#4, false, false, false, false, true, 7#6⟩ 1#2 0#2) fresh).map
    (fun t => (t.trace, t.port.attrSlot, t.port.attrByte)) =
    some (attrEvents [0x84#8, 0x52#8, 0x20#8, 0xC7#8, 0x08#8], 1, 0) := by decide

/-- Vector 2.3, second row, as a whole record. -/
theorem test_rec5a : events (.rec5a ⟨0x84#8, 0x70#8, 1#4, false, false, false, false, true, 10#6⟩ true) fresh =
    some (attrEvents [0x84#8, 0x70#8, 0x10#8, 0xCA#8, 0x20#8]) := by decide

/-- Vector 2.4, second row, as a whole record. -/
theorem test_rec5r : events (.rec5r ⟨0xF0#8, 0x10#8, 1#4, false, false, false, false, true, 1#6⟩ true) fresh =
    some (attrEvents [0xF0#8, 0x10#8, 0x10#8, 0xC1#8, 0x41#8]) := by decide

/-- Vector 2.6, second row: pat and mir restart. -/
theorem test_spawn : spriteAfter (.spawn 0 255#8 192#8 1 1) (one ⟨77#8, 5#8, .minus, .minus, 1, true⟩) 0 =
    some ⟨255#8, 192#8, .plus, .plus, 0, false⟩ := by decide

/-- Vector 2.6, rows three to five. -/
theorem test_spawn_refused :
    refusal (.spawn 0 0#8 193#8 1 1) fresh = some .spawnY ∧ refusal (.spawn 0 0#8 0#8 0 1) fresh = some .velocity ∧
    refusal (.spawn 10 0#8 0#8 1 1) fresh = some .spriteIndex := by decide

/-- Vector 2.6: two sprites, draws (+1, -1, -1, +1). -/
theorem test_init : (after .init { machine [none, none] 9#4 with
    env := { State.reset.env with draws := [.plus, .minus, .minus, .plus] } }).map
    (fun t => (t.engine.phase, t.engine.sprites, t.env.draws)) =
    some (0#4, [some ⟨1#8, 32#8, .plus, .minus, 0, false⟩, some ⟨17#8, 32#8, .minus, .plus, 0, false⟩], []) := by decide

/-- Vector 2.6: a raw 0 is rerolled to +1. -/
theorem test_init_rerolls_zero : spriteAfter .init { fresh with
    env := { State.reset.env with draws := List.replicate 20 .zero } } 9 =
    some ⟨145#8, 32#8, .plus, .plus, 0, false⟩ := by decide

/-- Vector 2.6: phase 15, pat 1 of 2, and phase 14. -/
theorem test_patcycle :
    (after .patcycle (machine [some { midSprite with pat := 1 }] 15#4)).map (fun t => (t.engine.phase, t.sprite 0)) =
      some (0#4, some { midSprite with pat := 0 }) ∧
    (after .patcycle (machine [some midSprite] 14#4)).map (fun t => (t.engine.phase, t.sprite 0)) =
      some (15#4, some midSprite) := by decide

/-- Vector 2.7: the bounce at the right wall, and the step before it (L1.5). -/
theorem test_hstep_right :
    spriteAfter (.hstep 0) (one ⟨254#8, 9#8, .plus, .plus, 1, false⟩) 0 = some ⟨255#8, 9#8, .plus, .plus, 1, false⟩ ∧
    spriteAfter (.hstep 0) (one ⟨255#8, 9#8, .plus, .plus, 1, false⟩) 0 = some ⟨255#8, 9#8, .minus, .plus, 1, true⟩ := by
  decide

/-- Vector 2.7: the bounce at the left wall, and a plain step that keeps the mirror flag. -/
theorem test_hstep_left :
    spriteAfter (.hstep 0) (one ⟨0#8, 9#8, .minus, .plus, 1, true⟩) 0 = some ⟨0#8, 9#8, .plus, .plus, 1, false⟩ ∧
    spriteAfter (.hstep 0) (one ⟨100#8, 9#8, .minus, .plus, 1, true⟩) 0 = some ⟨99#8, 9#8, .minus, .plus, 1, true⟩ := by
  decide

/-- Vector 2.7: the lower bound and the step after it. -/
theorem test_vstep_low :
    spriteAfter (.vstep 0) (one ⟨7#8, 0#8, .plus, .minus, 1, true⟩) 0 = some ⟨7#8, 0#8, .plus, .plus, 1, true⟩ ∧
    spriteAfter (.vstep 0) (one ⟨7#8, 0#8, .plus, .plus, 1, true⟩) 0 = some ⟨7#8, 1#8, .plus, .plus, 1, true⟩ := by decide

/-- Vector 2.7: the upper bound (L1.6). -/
theorem test_vstep_high :
    spriteAfter (.vstep 0) (one ⟨7#8, 191#8, .plus, .plus, 1, true⟩) 0 = some ⟨7#8, 192#8, .plus, .plus, 1, true⟩ ∧
    spriteAfter (.vstep 0) (one ⟨7#8, 192#8, .plus, .plus, 1, true⟩) 0 = some ⟨7#8, 192#8, .plus, .minus, 1, true⟩ := by
  decide

/-- Program P4, iteration 3: pattern advance and both bounces in one tick. -/
theorem test_tick_corner : (after .tick (machine [some ⟨255#8, 192#8, .plus, .plus, 0, false⟩] 15#4)).map
    (fun t => (t.engine.phase, t.sprite 0)) = some (0#4, some ⟨255#8, 192#8, .minus, .minus, 1, true⟩) := by decide

/-- Program P4, iteration 3, and the second sprite of vector 2.2's animation table. -/
theorem test_emit_all : events .emitAll (machine [some ⟨255#8, 192#8, .minus, .minus, 1, true⟩,
    some ⟨255#8, 0#8, .plus, .plus, 0, false⟩] 0#4) =
    some (.w .slot 0x00#8 :: attrEvents [0x1F#8, 0xE0#8, 0x09#8, 0x81#8, 0x1F#8, 0x20#8, 0x01#8, 0x80#8]) := by decide

/-- Vector 2.6, last row. -/
theorem test_unwritten_refused :
    refusal .patcycle fresh = some .unwrittenSprite ∧ refusal (.hstep 0) fresh = some .unwrittenSprite ∧
    refusal .tick fresh = some .unwrittenSprite ∧ refusal .emitAll fresh = some .unwrittenSprite := by decide

/-- Vector 2.8: the whole value is compared, so 448 is off the line although its low byte is 192 (LINE_W 9). -/
theorem test_wait_frame_whole_value : (after .waitFrame (withLine [448, 192] fresh)).map
    (fun t => (t.engine.seq, t.trace, t.env.line)) = some (.waitEnter, [.r .line 448], [192]) := by decide

/-- Vector 2.8, first row: a first sample on the line keeps the wait in its first phase. -/
theorem test_wait_frame_on_line : (after .waitFrame (withLine [192, 192, 193] fresh)).map
    (fun t => (t.engine.seq, t.trace, t.env.line)) = some (.waitLeave, [.r .line 192], [192, 193]) := by decide

/-- Vector 2.8, the FRAME example: its tick. -/
theorem test_frame : (after .frame (withLine [10, 192] (one ⟨254#8, 191#8, .plus, .plus, 0, false⟩))).map
    (fun t => (t.engine.seq, t.engine.phase, t.sprite 0)) =
    some (.emit, 1#4, some ⟨255#8, 192#8, .plus, .plus, 0, false⟩) := by decide

/-- Vector 2.8: RUN 0 from IDLE; and R14: refused while a sprite is unwritten. -/
theorem test_run_zero :
    (after (.run (.finite 0)) (one midSprite)).map (fun t => (t.engine.seq, t.trace, t.engine.sprites)) =
      some (.halt, [], [some midSprite]) ∧
    refusal (.run (.finite 0)) fresh = some .unwrittenSprite := by decide

/-- Program P3, frame 1: the first tick of RUN 3. -/
theorem test_run_three : (after (.run (.finite 3)) (machine [some ⟨1#8, 32#8, .plus, .minus, 0, false⟩,
    some ⟨17#8, 32#8, .minus, .plus, 0, false⟩] 0#4)).map (fun t => (t.engine.loop, t.engine.sprites)) =
    some (.run (.finite 3), [some ⟨2#8, 31#8, .plus, .minus, 0, false⟩, some ⟨16#8, 33#8, .minus, .plus, 0, false⟩]) := by
  decide

/-- Vector 2.10, first row. -/
theorem test_reg_select : (after (.regSelect 1#8) fresh).map (fun t => (t.trace, t.port.regSel, t.port.regChosen)) =
    some ([.w .regSel 1#8], 1#8, true) := by decide

/-- R49: a data write to the palette index register; R101: refused with none selected. -/
theorem test_reg_write :
    (after (.regWrite 0xC8#8) (selected 1#8 fresh)).map (fun t => (t.trace, t.port.palIndex)) =
      some ([.w .regData 0xC8#8], 0xC8#8) ∧
    refusal (.regWrite 0xC8#8) fresh = some .regSelUnspecified := by decide

/-- R102: the environment's byte is recorded and returned. -/
theorem test_reg_read :
    (after .regRead { selected 9#8 fresh with env := { State.reset.env with data := [0x5A#8] } }).map
      (fun t => (t.trace, t.env.result, t.port == (selected 9#8 fresh).port)) =
      some ([.r .regData 0x5A], some 0x5A#8, true) ∧
    refusal .regRead fresh = some .regSelUnspecified := by decide

/-- Vector 2.10, `SELECT_PATTERN_SLOT slot=0x45`. -/
theorem test_select_pattern_slot : (after (.selectPatternSlot 0x45#8) fresh).map
    (fun t => (t.trace, t.port.patSlot, t.port.patPos)) =
    some ([.w .regSel 0#8, .w .regData 0x05#8], 5#6, 0#8) := by decide

/-- R104: a block of 255 bytes is refused. -/
theorem test_upload_pattern_short : refusal (.uploadPattern (List.replicate 255 0x11#8)) fresh = some .blockLength := by
  decide +kernel

/-- Vector 2.10: startSlot 64 and count 0 touch no port and close the source. -/
theorem test_upload_series_nothing :
    (after (.uploadPatternSeries ⟨true, [some (blockOf 7#8)]⟩ 64 5) fresh).map (fun t => (t.trace, t.env.loader)) =
      some ([], [.opened, .closed]) ∧
    (after (.uploadPatternSeries ⟨true, [some (blockOf 7#8)]⟩ 10 0) fresh).map (fun t => (t.trace, t.env.loader)) =
      some ([], [.opened, .closed]) := by decide

/-- R105: a first read that fails leaves the select pair only. -/
theorem test_upload_series_aborts : (after (.uploadPatternSeries ⟨true, [none]⟩ 10 3) fresh).map
    (fun t => (t.trace, t.env.loader)) =
    some ([.w .regSel 0#8, .w .regData 10#8], [.opened, .read false, .closed]) := by decide

/-- Vector 2.10, `UPLOAD_PALETTE bank=[0x01FF]`. -/
theorem test_upload_palette : (after (.uploadPalette (some [0x01FF#16]) 0 1) fresh).map
    (fun t => (t.trace, t.port.pal, t.port.palIndex, t.port.palHalf)) =
    some ([.w .regSel 1#8, .w .regData 0#8, .w .regSel 2#8, .w .regData 0xFF#8, .w .regData 0x01#8],
      [(0, 0xFF#8), (1, 0x01#8)], 1#8, false) := by decide

/-- Vector 2.10 and L1.4: index 255 takes one entry of two and wraps; R118: a short bank is refused. -/
theorem test_upload_palette_clamps :
    (after (.uploadPalette (some [0x1234#16, 0x5678#16]) 255 2) fresh).map (fun t => (t.port.pal, t.port.palIndex)) =
      some ([(510, 0x34#8), (511, 0x12#8)], 0#8) ∧
    refusal (.uploadPalette (some [0x1234#16]) 254 2) fresh = some .bankTooShort := by decide

/-- Vector 2.10, last row, and R108: a failed first read closes the source, a failed open has nothing to close. -/
theorem test_load_palette_fails :
    (after (.loadPaletteFromSource ⟨true, [none]⟩) fresh).map (fun t => (t.trace, t.env.loader)) =
      some ([], [.opened, .read false, .closed]) ∧
    (after (.loadPaletteFromSource ⟨false, []⟩) fresh).map (fun t => (t.trace, t.env.loader)) =
      some ([], [.openFailed]) := by decide

/-! ## Witnesses: concrete states and operands that meet the hypotheses of the statements

One theorem for each statement with hypotheses, named after it; a statement of several clauses has a value for each. -/

/-- An anchor record. -/
def anchorRec : SpriteRecord := { rec0 with anchorMode := .extendedAnchor }

/-- A relative record. -/
def relRec (dx dy : Int) : SpriteRecord := { rec0 with anchorMode := .relativeToAnchor dx dy }

/-- Two written sprites, the first on its right wall and the second on its left, at phase 15. -/
def pair : State := machine [some ⟨255#8, 192#8, .plus, .plus, 1, false⟩, some ⟨0#8, 0#8, .minus, .minus, 0, false⟩] 15#4

theorem witness_EncAnchorWritesFiveBytes : anchorRec.anchorMode = .extendedAnchor := by decide

/-- Both ends of the range of a delta. -/
theorem witness_EncRelWritesFiveBytes :
    (relRec (-128) 127).anchorMode = .relativeToAnchor (-128) 127 ∧ (-128 : Int) ≤ -128 ∧ (-128 : Int) ≤ 127 ∧
    (127 : Int) ≤ 127 ∧ (relRec 127 (-128)).anchorMode = .relativeToAnchor 127 (-128) := by decide

/-- The three clauses: the two wrong modes, and a delta just outside at each of the four ends. -/
theorem witness_EncodersRefuseMismatchedRecord :
    rec0.anchorMode ≠ .extendedAnchor ∧ (∀ dx dy, anchorRec.anchorMode ≠ .relativeToAnchor dx dy) ∧
    ((relRec (-129) 0).anchorMode = .relativeToAnchor (-129) 0 ∧ (-129 : Int) < -128) ∧
    ((relRec 128 0).anchorMode = .relativeToAnchor 128 0 ∧ (127 : Int) < 128) ∧
    (relRec 0 (-129)).anchorMode = .relativeToAnchor 0 (-129) ∧ (relRec 0 128).anchorMode = .relativeToAnchor 0 128 :=
  ⟨by decide, (by intro dx dy h; cases h), by decide, by decide, by decide, by decide⟩

/-- A four-byte and a five-byte record, at byte 0 of the last slot. -/
theorem witness_RecordLandsInSelectedSlot :
    recordOf (atCursor 127 0 fresh).cfg (.encAbs rec0) = some [0x00#8, 0x00#8, 0x00#8, 0x80#8] ∧
    recordOf (atCursor 127 0 fresh).cfg (.encAnchor anchorRec true) = some [0x20#8, 0x20#8, 0x00#8, 0xC0#8, 0x20#8] ∧
    (atCursor 127 0 fresh).port.attrByte = 0 := by decide

/-- Begun in the middle of a record. -/
theorem witness_RecordEmissionFrame :
    recordOf (atCursor 3 4 fresh).cfg (.encExt rec0) = some [0x20#8, 0x20#8, 0x00#8, 0x80#8] := by decide

/-- Each position class, with E set and clear. -/
theorem witness_AttributePortAdvances :
    (atCursor 127 2 fresh).port.attrByte.val < 3 ∧ (atCursor 127 3 fresh).port.attrByte.val = 3 ∧
    (0x40#8).getLsbD 6 = true ∧ (0xBF#8).getLsbD 6 = false ∧ (atCursor 127 4 fresh).port.attrByte.val = 4 := by decide

theorem witness_DecodeOfEncodeIsIdentity :
    Instr.wf (.spawn 9 255#8 192#8 (-1) 1) = true ∧ Instr.wf (.encRel (relRec (-128) 127) rec0 true) = true ∧
    Instr.wf (.rec5s ⟨0#8, 0#8, 0#4, false, false, false, false, true, 0#6⟩ 0#2 1#2) = true ∧
    Instr.wf (.uploadPalette (some [0x01FF#16]) 255 2) = true := by decide

theorem witness_RecordDecodingLosesNoBit :
    decode (.record [0x84#8, 0x70#8, 0x10#8, 0xCA#8, 0x20#8]) =
      .ok (.rec5a ⟨0x84#8, 0x70#8, 1#4, false, false, false, false, true, 10#6⟩ true) ∧
    decode (.record [0x01#8, 0x02#8, 0x00#8, 0x83#8]) =
      .ok (.rec4 ⟨0x01#8, 0x02#8, 0#4, false, false, false, false, true, 3#6⟩) := by decide

/-- A record of each format. -/
theorem witness_RecordViewReadsFormats :
    rec4Bytes ⟨0x2C#8, 0x64#8, 3#4, true, false, false, true, true, 5#6⟩ = [0x2C#8, 0x64#8, 0x39#8, 0x85#8] ∧
    rec5sBytes ⟨0x2C#8, 0x64#8, 3#4, true, false, false, true, true, 5#6⟩ 3#2 3#2 =
      [0x2C#8, 0x64#8, 0x39#8, 0xC5#8, 0x1E#8] ∧
    rec5aBytes ⟨0x2C#8, 0x64#8, 3#4, true, false, false, true, true, 5#6⟩ true =
      [0x2C#8, 0x64#8, 0x39#8, 0xC5#8, 0x20#8] ∧
    rec5rBytes ⟨0x2C#8, 0x64#8, 3#4, true, false, false, true, true, 5#6⟩ true =
      [0x2C#8, 0x64#8, 0x39#8, 0xC5#8, 0x41#8] := by decide

/-- The first selector past each group, and the last of all. -/
theorem witness_UnassignedSelectorIsRefused :
    (presenting [.request (.command 0x05#8 OperandBus.zero)] fresh).cfgValid = true ∧
    (presenting [.request (.command 0x05#8 OperandBus.zero)] fresh).engine.loop = .none ∧
    (0x05#8).toNat ∉ assignedSelectors ∧ (0x1A#8).toNat ∉ assignedSelectors ∧ (0x28#8).toNat ∉ assignedSelectors ∧
    (0xFF#8).toNat ∉ assignedSelectors := by decide

/-- The last sprite at the bottom edge. -/
theorem witness_SpawnReplacesSprite : 9 < fresh.nSprites ∧ (192#8).toNat ≤ 192 := by decide

/-- Each reason to refuse, at the first value past its range. -/
theorem witness_SpawnRefusesBadOperands :
    fresh.nSprites ≤ 10 ∧ 192 < (193#8).toNat ∧ ((0 : Int) ≠ 1 ∧ (0 : Int) ≠ -1) ∧ ((2 : Int) ≠ 1 ∧ (2 : Int) ≠ -1) := by
  decide

/-- Just enough draws. -/
theorem witness_InitSpawnsEverySprite :
    2 * (machine [none, none] 0#4).nSprites ≤ [RawDraw.plus, .minus, .zero, .plus].length ∧
    [RawDraw.plus, .minus, .zero, .plus][2 * 1]? = some .zero ∧
    [RawDraw.plus, .minus, .zero, .plus][2 * 1 + 1]? = some .plus := by decide

/-- Phase 15 and phase 14. -/
theorem witness_PatcycleAdvancesEverySixteenth :
    pair.allWritten = true ∧ pair.engine.phase.toNat = 15 ∧
    (machine pair.engine.sprites 14#4).allWritten = true ∧ (machine pair.engine.sprites 14#4).engine.phase.toNat ≠ 15 ∧
    pair.sprite 1 = some ⟨0#8, 0#8, .minus, .minus, 0, false⟩ := by decide

/-- Each wall, and the position before it. -/
theorem witness_HstepBouncesOnByteWrap :
    pair.sprite 0 = some ⟨255#8, 192#8, .plus, .plus, 1, false⟩ ∧ (255#8) + 1 < (255#8) ∧ ¬ (254#8) + 1 < (254#8) ∧
    pair.sprite 1 = some ⟨0#8, 0#8, .minus, .minus, 0, false⟩ ∧ (0#8) < (0#8) - 1 ∧ ¬ (1#8) < (1#8) - 1 := by decide

/-- Each bound, and the values that just stay within it. -/
theorem witness_VstepClampsAndReverses :
    pair.sprite 0 = some ⟨255#8, 192#8, .plus, .plus, 1, false⟩ ∧ 192 < ((192#8).toNat : Int) + Dir.plus.toInt ∧
    pair.sprite 1 = some ⟨0#8, 0#8, .minus, .minus, 0, false⟩ ∧ ((0#8).toNat : Int) + Dir.minus.toInt < 0 ∧
    0 ≤ ((1#8).toNat : Int) + Dir.minus.toInt ∧ ((191#8).toNat : Int) + Dir.plus.toInt ≤ 192 ∧ (192#8).toNat ≤ 192 ∧
    193#8 = BitVec.ofInt 8 ((192#8).toNat + Dir.plus.toInt) := by decide

theorem witness_TickStepsEverySprite :
    pair.allWritten = true ∧ pair.sprite 0 = some ⟨255#8, 192#8, .plus, .plus, 1, false⟩ := by decide

/-- The last sprite unwritten, one unwritten sprite after a written one, and the first index past the last. -/
theorem witness_UnwrittenSpritesAreRefused :
    9 < fresh.nSprites ∧ fresh.sprite 9 = none ∧ 1 < (machine [some midSprite, none] 0#4).nSprites ∧
    (machine [some midSprite, none] 0#4).sprite 1 = none ∧ fresh.nSprites ≤ 10 := by decide

/-- A sprite whose bounce sets the flag, and one that already agrees with it. -/
theorem witness_MirrorFollowsDirection :
    pair.sprite 0 = some ⟨255#8, 192#8, .plus, .plus, 1, false⟩ ∧ ((false = true) ↔ (Dir.plus = .minus)) ∧
    (hstepSprite ⟨255#8, 192#8, .plus, .plus, 1, false⟩).vx ≠ .plus := by decide

theorem witness_SpritesStayInBounds : fresh.cfgValid = true ∧ 9 < fresh.nSprites := by decide

theorem witness_StepsArePeriodic :
    pair.sprite 0 = some ⟨255#8, 192#8, .plus, .plus, 1, false⟩ ∧ (192#8).toNat ≤ 192 := by decide

theorem witness_EmitAllIsItsExpansion : pair.allWritten = true := by decide

theorem witness_EmitAllWritesEverySprite : pair.allWritten = true := by decide

/-- The last sprite, and an address outside both slots. -/
theorem witness_EmitAllShowsEverySprite :
    pair.cfgValid = true ∧ pair.allWritten = true ∧ pair.sprite 1 = some ⟨0#8, 0#8, .minus, .minus, 0, false⟩ ∧
    (∀ i, i < 2 → ∀ k, k < 4 → 4 ≠ 5 * (pair.cfg.attrBase.toNat + i) + k) := by decide

/-- Each clause: on and off the line, in each phase; 191 and 193 are the lines beside it. -/
theorem witness_WaitStaysUntilBeamMoves :
    (inLoop .waitLeave .wait (withLine [192] fresh)).cfgValid = true ∧
    (inLoop .waitLeave .wait (withLine [192] fresh)).engine.loop ≠ .none ∧
    (inLoop .waitLeave .wait (withLine [192] fresh)).engine.seq = .waitLeave ∧
    (inLoop .waitLeave .wait (withLine [192] fresh)).lineValue = 192 ∧
    (inLoop .waitEnter .frame (withLine [191] fresh)).engine.seq = .waitEnter ∧
    (inLoop .waitEnter .frame (withLine [191] fresh)).lineValue ≠ 192 ∧
    (inLoop .waitLeave .wait (withLine [193] fresh)).lineValue ≠ 192 ∧
    (inLoop .waitEnter .frame (withLine [192] fresh)).lineValue = 192 := by decide

/-- The shortest run of samples that ends a wait. -/
theorem waitSamples_short : waitSamples Params.default [191, 192] :=
  ⟨[], [], 191, rfl, by decide, by decide, by decide, by decide⟩

/-- A run that begins on the line. -/
theorem waitSamples_long : waitSamples Params.default [192, 193, 511, 192] :=
  ⟨[192], [511], 193, rfl, by decide, by decide, by decide, by decide⟩

theorem witness_WaitFrameEndsWithSamples :
    (presenting [.request (encode .waitFrame)] (withLine [192, 193, 511, 192, 7] fresh)).cfgValid = true ∧
    (presenting [.request (encode .waitFrame)] (withLine [192, 193, 511, 192, 7] fresh)).engine.loop = .none ∧
    waitSamples Params.default [192, 193, 511, 192] ∧
    (withLine [192, 193, 511, 192, 7] fresh).env.line = [192, 193, 511, 192] ++ [7] ∧
    (presenting [.request (encode .waitFrame)] (withLine [192, 193, 511, 192, 7] fresh)).env.inputs =
      .request (encode .waitFrame) :: [] :=
  ⟨by decide, by decide, waitSamples_long, by decide, rfl⟩

theorem witness_FrameBeginsWithTick : pair.allWritten = true := by decide

theorem witness_RunBeginsWithTick :
    pair.allWritten = true ∧ Budget.finite 1 ≠ .finite 0 ∧ Budget.infinite ≠ .finite 0 := by decide

/-- Each phase, each loop, the last frame of a RUN and the one before it. -/
theorem witness_SequencerCyclesThroughPhases :
    (inLoop .update .frame pair).cfgValid = true ∧ (inLoop .update .frame pair).engine.loop ≠ .none ∧
    (inLoop .update .frame pair).engine.seq = .update ∧ (inLoop .update .frame pair).allWritten = true ∧
    (inLoop .emit .frame pair).engine.seq = .emit ∧
    (inLoop .waitEnter .wait (withLine [192] pair)).engine.seq = .waitEnter ∧
    (inLoop .waitEnter .wait (withLine [192] pair)).lineValue = 192 ∧
    (inLoop .waitEnter .wait pair).engine.loop = .wait ∧ (inLoop .waitEnter .frame pair).engine.loop = .frame ∧
    (inLoop .waitEnter (.run .infinite) pair).engine.loop = .run .infinite ∧
    (inLoop .waitEnter (.run (.finite 1)) pair).engine.loop = .run (.finite 1) ∧
    (inLoop .waitEnter (.run (.finite 2)) pair).engine.loop = .run (.finite 2) := by decide

theorem witness_FrameIsTickEmitWait :
    (presenting [.request (encode .frame)] (withLine [191, 192] pair)).cfgValid = true ∧
    (presenting [.request (encode .frame)] (withLine [191, 192] pair)).engine.loop = .none ∧
    (presenting [.request (encode .frame)] (withLine [191, 192] pair)).allWritten = true ∧
    waitSamples Params.default [191, 192] ∧ (withLine [191, 192] pair).env.line = [191, 192] ++ [] ∧
    (presenting [.request (encode .frame)] (withLine [191, 192] pair)).env.inputs = .request (encode .frame) :: [] :=
  ⟨by decide, by decide, by decide, waitSamples_short, by decide, rfl⟩

/-- Two sprites, samples for two frames, the first of four, and RUN 2 presented. -/
def twoFrames : State :=
  presenting [.request (encode (.run (.finite 2)))] (withLine [192, 193, 511, 192, 191, 192, 7] pair)

theorem witness_RunHaltsAfterItsFrames :
    twoFrames.cfgValid = true ∧ twoFrames.engine.loop = .none ∧ twoFrames.allWritten = true ∧
    1 ≤ [[192, 193, 511, 192], [191, 192]].length ∧
    (∀ f ∈ [[192, 193, 511, 192], [191, 192]], waitSamples twoFrames.cfg f) ∧
    twoFrames.env.line = [[192, 193, 511, 192], [191, 192]].flatten ++ [7] ∧
    twoFrames.env.inputs = .request (encode (.run (.finite [[192, 193, 511, 192], [191, 192]].length))) :: [] := by
  refine ⟨by decide, by decide, by decide, by decide, ?_, by decide, rfl⟩
  intro f hf
  simp only [List.mem_cons, List.not_mem_nil, or_false] at hf
  rcases hf with rfl | rfl
  · exact waitSamples_long
  · exact waitSamples_short

theorem witness_NothingIsIssuedDuringALoop :
    (inLoop .waitEnter .wait (withLine [7] fresh)).engine.loop ≠ .none ∧
    ∃ t, step (inLoop .waitEnter .wait (withLine [7] fresh)) = .next t := ⟨by decide, _, rfl⟩

/-- No selection; the three ids and another one; both palette halves. -/
theorem witness_RegWriteReachesSelectedRegister :
    fresh.port.regChosen = false ∧ (selected 3#8 fresh).port.regChosen = true ∧
    (selected 3#8 fresh).port.regSel ≠ fresh.cfg.regPatSlot ∧ (selected 3#8 fresh).port.regSel ≠ fresh.cfg.regPalIndex ∧
    (selected 3#8 fresh).port.regSel ≠ fresh.cfg.regPalData ∧
    idsDiffer fresh.cfg ∧ (selected 0#8 fresh).port.regSel = fresh.cfg.regPatSlot ∧
    (selected 1#8 fresh).port.regSel = fresh.cfg.regPalIndex ∧
    (selected 2#8 fresh).port.regSel = fresh.cfg.regPalData ∧ (selected 2#8 fresh).port.palHalf = false ∧
    { testPort with palHalf := true }.palHalf = true := by unfold idsDiffer; decide

/-- Before and after a selection, with a byte supplied. -/
theorem witness_RegReadReturnsFreeByte :
    fresh.port.regChosen = false ∧ (selected 9#8 fresh).port.regChosen = true ∧
    { State.reset.env with data := [0x5A#8] }.data = 0x5A#8 :: [] := by decide

theorem witness_SelectPatternSlotMasks : idsDiffer fresh.cfg := by unfold idsDiffer; decide

/-- Lengths 255, 256 and 257, and an address outside the block written from slot 0. -/
theorem witness_UploadPatternFillsSlot :
    (List.replicate 255 0#8).length ≠ 256 ∧ (List.replicate 257 0#8).length ≠ 256 ∧
    (blockOf 7#8).toList.length = 256 ∧
    ∀ n, n < 256 → 256 ≠ (256 * fresh.port.patSlot.toNat + fresh.port.patPos.toNat + n) % 16384 := by
  refine ⟨by decide +kernel, by decide +kernel, by decide +kernel, fun n hn => ?_⟩
  have h1 : fresh.port.patSlot.toNat = 0 := rfl
  have h2 : fresh.port.patPos.toNat = 0 := rfl
  omega

/-- A closed source; start 64 and count 0; start 63, whose count is clamped to one block. -/
theorem witness_PatternSeriesClampsAndAborts :
    (⟨false, []⟩ : Source).opens = false ∧ (⟨true, []⟩ : Source).opens = true ∧ min 5 (64 - 64) = 0 ∧
    min 0 (64 - 10) = 0 ∧ 0 < min 10 (64 - 63) ∧
    [blockOf 7#8] = goodReads (min 10 (64 - 63)) [some (blockOf 7#8), none] ∧
    [blockOf 7#8][0]? = some (blockOf 7#8) ∧ 16127 < 256 * 63 ∧ idsDiffer fresh.cfg :=
  ⟨rfl, rfl, rfl, rfl, by decide, rfl, rfl, by decide, by unfold idsDiffer; decide⟩

/-- A clamp to 0 from a zero length and from index 256; a short bank; index 255, clamped to one entry. -/
theorem witness_UploadPaletteClampsAndWrites :
    min 0 (256 - 7) = 0 ∧ min 4 (256 - 256) = 0 ∧ [0x01FF#16].length < min 2 (256 - 254) ∧ 0 < min 2 (256 - 255) ∧
    min 2 (256 - 255) ≤ [0x01FF#16].length ∧ [0x01FF#16][0]? = some 0x01FF#16 ∧ idsDiffer fresh.cfg := by
  unfold idsDiffer; decide

/-- A closed source, a failing first read, one good chunk, and two. -/
theorem witness_LoadPaletteKeepsLoadedHalves :
    (⟨false, []⟩ : Source).opens = false ∧ (⟨true, [none]⟩ : Source).reads.head?.join = none ∧
    (⟨true, [some (blockOf 1#8), none]⟩ : Source).reads = some (blockOf 1#8) :: [none] ∧
    ([none] : List (Option Block)).head?.join = none ∧
    (⟨true, [some (blockOf 1#8), some (blockOf 2#8)]⟩ : Source).reads =
      some (blockOf 1#8) :: some (blockOf 2#8) :: [] ∧ idsDiffer fresh.cfg :=
  ⟨rfl, rfl, rfl, rfl, rfl, by unfold idsDiffer; decide⟩

theorem witness_PaletteLoadIsIdempotent : idsDiffer fresh.cfg ∧ fresh.port.pal.wf := by unfold idsDiffer; decide

/-- `SELECT_SLOT 5` on the command interface, the block wires empty. -/
def selectFive : Request := .command 0x00#8 { OperandBus.zero with byte := 5#8, block := [] }

/-- A machine that meets the invariant with a sprite on the screen, presented a slot select. -/
def lively : State := presenting [.request selectFive] pair

/-- The invariant holds of a machine with written sprites, and its step completes. -/
theorem witness_EveryStepKeepsInvariant : lively.Inv ∧ ∃ t, step lively = .next t := by
  refine ⟨⟨by decide, by decide, by decide, by decide, by decide, by decide, by decide, by decide, ?_, ⟨nofun, nofun⟩, ?_⟩, _, rfl⟩
  · intro sp hsp
    simp only [lively, presenting, pair, machine, List.mem_cons, Option.some.injEq, List.not_mem_nil, or_false] at hsp
    rcases hsp with rfl | rfl
    · exact ⟨by decide, by decide⟩
    · exact ⟨by decide, by decide⟩
  · intro k hk
    have h : tracePos lively.trace = .unselected := rfl
    rw [h] at hk
    cases hk

/-- Something presented, and nothing. -/
theorem witness_StepExecutesPresentedInstruction :
    lively.cfgValid = true ∧ lively.engine.loop = .none ∧
    lively.env.inputs = .request selectFive :: [] ∧ decode selectFive = .ok (.selectSlot 5#8) ∧ fresh.cfgValid = true ∧ fresh.engine.loop = .none ∧
    fresh.env.inputs = [] := by decide

theorem witness_TraceIsAppendOnly : ∃ t, step lively = .next t := ⟨_, rfl⟩

/-- A trace of one whole record, and a slot select presented. -/
def betweenRecords : State :=
  { presenting [.request selectFive] pair with trace := .w .slot 0x00#8 :: attrEvents [0x20#8, 0x20#8, 0x00#8, 0x80#8] }

/-- The same with a wait in progress and an external write at the head of the queue. -/
def betweenRecordsWaiting : State :=
  inLoop .waitEnter .wait (withLine [7] { betweenRecords with env := { betweenRecords.env with inputs := [.portWrite .slot 1#8] } })

theorem witness_StepsKeepRecordsWhole :
    (betweenRecords.engine.loop = .none → ∀ p v, betweenRecords.env.inputs.head? ≠ some (.portWrite p v)) ∧
    recordsWhole betweenRecords.trace ∧ (∃ t, step betweenRecords = .next t) ∧
    betweenRecordsWaiting.engine.loop ≠ .none ∧ recordsWhole betweenRecordsWaiting.trace ∧
    (∃ t, step betweenRecordsWaiting = .next t) ∧
    tracePos pair.trace = .unselected ∧ ∃ t, exec .emitAll pair = .next t :=
  ⟨fun _ _ _ h => (nomatch h), by decide, ⟨_, rfl⟩, by decide, by decide, ⟨_, rfl⟩, by decide, _, rfl⟩

theorem witness_WrittenSpritesStayWritten :
    (∃ t, step lively = .next t) ∧ lively.sprite 0 = some ⟨255#8, 192#8, .plus, .plus, 1, false⟩ :=
  ⟨⟨_, rfl⟩, by decide⟩

/-- An instruction of each group that completes, and a step of a loop. -/
theorem witness_FamiliesKeepToTheirSide :
    (∃ t, exec .emitAll pair = .next t) ∧ (∃ t, exec (.regSelect 1#8) pair = .next t) ∧
    (∃ t, exec .tick pair = .next t) ∧ (∃ t, exec .frame pair = .next t) ∧
    (∃ t, exec (.run (.finite 0)) pair = .next t) ∧ (∃ t, exec .waitFrame pair = .next t) ∧
    recordOf pair.cfg (.encAbs rec0) ≠ none ∧ (inLoop .emit .frame pair).engine.loop ≠ .none ∧
    ∃ t, step (inLoop .emit .frame pair) = .next t :=
  ⟨⟨_, rfl⟩, ⟨_, rfl⟩, ⟨_, rfl⟩, ⟨_, rfl⟩, ⟨_, rfl⟩, ⟨_, rfl⟩, by decide, by decide, _, rfl⟩

/-- Each constraint broken by one: no sprite; 17 sprites reach x = 257; Y_START 193; no pattern; pattern slot 64; slot
count one short. -/
theorem witness_BadConfigurationIsRefused :
    (machine [] 0#4).nSprites = 0 ∧
    255 < fresh.cfg.xStart + fresh.cfg.xStep * ((machine (List.replicate 17 none) 0#4).nSprites - 1) ∧
    192 < { fresh.cfg with yStart := 193 }.yStart ∧ { fresh.cfg with patternSet := [] }.patternSet = [] ∧
    (∃ k ∈ { fresh.cfg with patternSet := [64#8] }.patternSet, 63 < k.toNat) ∧
    { fresh.cfg with nAttrSlots := 9 }.nAttrSlots < fresh.cfg.attrBase.toNat + fresh.nSprites := by decide

/-- Each port, in the middle of a record, and the cursor positions at which the clauses meet. -/
theorem witness_ExternalWriteReactsAsWritten :
    (presenting [.portWrite .slot 1#8] (atCursor 0 2 fresh)).cfgValid = true ∧
    (presenting [.portWrite .slot 1#8] (atCursor 0 2 fresh)).engine.loop = .none ∧
    (presenting [.portWrite .slot 1#8] (atCursor 0 2 fresh)).env.inputs = .portWrite .slot 1#8 :: [] ∧
    (presenting [.portWrite .attr 0x33#8] (atCursor 0 2 fresh)).env.inputs = .portWrite .attr 0x33#8 :: [] ∧
    (atCursor 0 2 fresh).port.attrByte.val < 3 ∧ (atCursor 0 3 fresh).port.attrByte.val = 3 ∧
    (0x40#8).getLsbD 6 = true ∧ (0xBF#8).getLsbD 6 = false ∧ (atCursor 127 4 fresh).port.attrByte.val = 4 ∧
    (presenting [.portWrite .regSel 1#8] fresh).env.inputs = .portWrite .regSel 1#8 :: [] ∧
    (presenting [.portWrite .regData 1#8] fresh).env.inputs = .portWrite .regData 1#8 :: [] ∧ idsDiffer fresh.cfg ∧
    (selected 0#8 fresh).port.regSel = fresh.cfg.regPatSlot ∧ (selected 1#8 fresh).port.regSel = fresh.cfg.regPalIndex ∧
    (selected 2#8 fresh).port.regSel = fresh.cfg.regPalData ∧ (selected 2#8 fresh).port.palHalf = false ∧
    { testPort with palHalf := true }.palHalf = true ∧ (selected 3#8 fresh).port.regSel ≠ fresh.cfg.regPatSlot ∧
    (selected 3#8 fresh).port.regSel ≠ fresh.cfg.regPalIndex ∧ (selected 3#8 fresh).port.regSel ≠ fresh.cfg.regPalData ∧
    (presenting [.portWrite .pattern 1#8] fresh).env.inputs = .portWrite .pattern 1#8 :: [] ∧
    { testPort with patPos := 254#8 }.patPos.toNat < 255 ∧ { testPort with patPos := 255#8 }.patPos.toNat = 255 ∧
    (presenting [.portWrite .line 1#8] fresh).env.inputs = .portWrite .line 1#8 :: [] := by unfold idsDiffer; decide

/-- Vector 2.5, last row, at its third write: the bytes already stored stay, the cursor restarts at slot 1. -/
theorem test_external_select_in_record :
    (match step (presenting [.portWrite .slot 1#8] { atCursor 0 2 fresh with
        port := { testPort with attrByte := 2, attr := [(0, 0x11#8), (1, 0x22#8)] } }) with
      | .next t => some (t.port.attr, t.port.attrSlot, t.port.attrByte)
      | .fault _ => none
      | .refused _ => none) = some ([(0, 0x11#8), (1, 0x22#8)], 1, 0) := by decide

end Sys2Proof.Machine
end

section
/-! The trace is empty at reset and append-only (R27), and each port access appends its own event (R34). -/

namespace Sys2Proof.Machine

/-- An instruction that completes only adds to the trace: port traffic appends its events, an engine change none, and the
beginning of a loop at most one scanline read. -/
theorem exec_trace_append {i : Instr} {s t : State} (h : exec i s = .next t) : ∃ events, t.trace = s.trace ++ events := by
  rcases exec_next h with traffic | change | begins
  · exact traffic.trace.1
  · obtain ⟨-, -, htrace, -⟩ := change.frame
    exact ⟨[], by rw [htrace, List.append_nil]⟩
  · obtain ⟨-, -, -, -, htrace | ⟨l, htrace⟩⟩ := begins.keeps
    · exact ⟨[], by rw [htrace, List.append_nil]⟩
    · exact ⟨_, htrace⟩

/-- So does a further step of the operation in progress: only the emission and the two kinds of poll reach a port. -/
theorem sequencerStep_trace_append {s t : State} (h : sequencerStep s = .next t) :
    ∃ events, t.trace = s.trace ++ events := by
  rcases sequencerStep_next h with ⟨-, -, rfl⟩ | ⟨-, -, rfl⟩ | ⟨-, rfl⟩ | ⟨-, rfl⟩ | ⟨-, rfl⟩
  · exact ⟨[], by simp⟩
  · exact (PortTraffic.emitSprites s).trace.1
  · obtain ⟨-, -, -, -, -, htrace, -⟩ := pollLeave_frame s
    exact ⟨_, htrace⟩
  · obtain ⟨-, -, -, -, htrace, -⟩ := pollEnter_frame s
    exact ⟨_, htrace⟩
  · exact ⟨[], by simp⟩

/-- So does taking what is presented: nothing, an instruction, or an external port write. -/
theorem fetchStep_trace_append {s t : State} (h : fetchStep s = .next t) : ∃ events, t.trace = s.trace ++ events := by
  rcases fetchStep_next h with ⟨-, rfl⟩ | ⟨_, _, _, -, -, hexec⟩ | ⟨p, v, _, -, -, rfl⟩
  · exact ⟨[], by simp⟩
  · obtain ⟨events, htrace⟩ := exec_trace_append hexec
    exact ⟨events, by rw [htrace, State.takeInput_trace]⟩
  · exact ⟨[.w p v], by rw [portWrite_trace, State.takeInput_trace]⟩

/-- The trace is append-only: no step removes or changes an event (R27). -/
theorem step_trace_append {s t : State} (h : step s = .next t) : ∃ events, t.trace = s.trace ++ events := by
  obtain ⟨-, ⟨-, hloop⟩ | ⟨-, htaken⟩⟩ := step_next h
  · exact sequencerStep_trace_append hloop
  · exact fetchStep_trace_append htaken

/-- Settles O54: the port primitives are their event and reaction by definition, and a step appends by the cases of what it
can do. -/
theorem traceIsAppendOnly : Obligations.TraceIsAppendOnly :=
  ⟨rfl, fun _ _ _ => rfl, fun s => ⟨State.readLine_trace s, State.readData_trace s⟩, fun _ _ => step_trace_append⟩

end Sys2Proof.Machine
end

section
/-! The encoder forms read only the low four bits of paletteOffset (R63) and the low six of patternSlot (R64): bytes 2 and 3
of an operand record are the packed bytes of R53 with those bits as their fields. -/

namespace Sys2Proof.Machine

/-- Byte 2 of an operand record is the packed byte of R53, its palette field the low four bits of the operand (R63). -/
theorem b2Of_eq_packB2 (r : SpriteRecord) (xhi : Bool) :
    b2Of r xhi = packB2 (r.paletteOffset.extractLsb' 0 4) r.mirrorX r.mirrorY r.rotate90 xhi :=
  BitVec.eq_of_toNat_eq (by simp [b2Of_toNat, packB2_toNat])

/-- Byte 3 of an operand record is the packed byte of R53, its pattern field the low six bits of the operand (R64). -/
theorem b3Of_eq_packB3 (r : SpriteRecord) (e : Bool) :
    b3Of r e = packB3 r.visible e (r.patternSlot.extractLsb' 0 6) :=
  BitVec.eq_of_toNat_eq (by simp [b3Of_toNat, packB3_toNat])

theorem packB2_flags : ∀ (p : BitVec 4) (m n r h : Bool), (packB2 p m n r h).extractLsb' 0 4 =
    BitVec.ofBool m ++ BitVec.ofBool n ++ BitVec.ofBool r ++ BitVec.ofBool h := by decide

theorem packB3_flags : ∀ (v e : Bool) (s : BitVec 6),
    (packB3 v e s).extractLsb' 6 2 = BitVec.ofBool v ++ BitVec.ofBool e := by decide

theorem maskPalette_low : ∀ p : Byte, (p &&& 0x0F#8).extractLsb' 0 4 = p.extractLsb' 0 4 := by decide

theorem maskSlot_low : ∀ n : Byte, (maskSlot n).extractLsb' 0 6 = n.extractLsb' 0 6 := by decide

/-! ## A record masked beforehand -/

/-- The record with its palette offset and pattern slot reduced to the bits that are kept (R63, R64). -/
def maskRecord (r : SpriteRecord) : SpriteRecord :=
  { r with paletteOffset := r.paletteOffset &&& 0x0F#8, patternSlot := maskSlot r.patternSlot }

section
variable (r : SpriteRecord)

@[simp] theorem maskRecord_y : (maskRecord r).y = r.y := rfl
@[simp] theorem maskRecord_anchorMode : (maskRecord r).anchorMode = r.anchorMode := rfl
@[simp] theorem absX9_maskRecord : absX9 (maskRecord r) = absX9 r := rfl
@[simp] theorem extX9_maskRecord : extX9 (maskRecord r) = extX9 r := rfl
@[simp] theorem extY8_maskRecord : extY8 (maskRecord r) = extY8 r := rfl
@[simp] theorem unscaled_maskRecord : unscaled (maskRecord r) = unscaled r := rfl
@[simp] theorem b4Scale_maskRecord : b4Scale (maskRecord r) = b4Scale r := rfl

@[simp] theorem b2Of_maskRecord (xhi : Bool) : b2Of (maskRecord r) xhi = b2Of r xhi := by
  rw [b2Of_eq_packB2, b2Of_eq_packB2, maskRecord, maskPalette_low]

@[simp] theorem b3Of_maskRecord (e : Bool) : b3Of (maskRecord r) e = b3Of r e := by
  rw [b3Of_eq_packB3, b3Of_eq_packB3, maskRecord, maskSlot_low]

theorem exec_encAbs_maskRecord (s : State) : exec (.encAbs (maskRecord r)) s = exec (.encAbs r) s := by
  simp [exec, execEncAbs, encAbsBytes]

theorem exec_encExt_maskRecord (s : State) : exec (.encExt (maskRecord r)) s = exec (.encExt r) s := by
  simp [exec, execEncExt, encExtBytes]

theorem exec_encAnchor_maskRecord (unified : Bool) (s : State) :
    exec (.encAnchor (maskRecord r) unified) s = exec (.encAnchor r unified) s := by
  simp [exec, execEncAnchor, encAnchorBytes]

theorem exec_encRel_maskRecord (a : SpriteRecord) (patrel : Bool) (s : State) :
    exec (.encRel (maskRecord r) a patrel) s = exec (.encRel r a patrel) s := by
  simp [exec, execEncRel, encRelBytes]

end

/-- Settles O7: bytes 2 and 3 are packed from the kept bits, the flag bits and nothing else, so masking the operands first
changes no form's record. -/
theorem paletteAndSlotAreMasked : Obligations.PaletteAndSlotAreMasked := by
  intro r p n a b e s
  refine ⟨?palette, ?flags2, ?slot, ?flags3, (exec_encAbs_maskRecord _ s).symm, (exec_encExt_maskRecord _ s).symm,
    (exec_encAnchor_maskRecord _ b s).symm, (exec_encRel_maskRecord _ a b s).symm⟩
  case palette => rw [b2Of_eq_packB2, packB2_palette]
  case flags2 => rw [b2Of_eq_packB2, b2Of_eq_packB2, packB2_flags, packB2_flags]
  case slot => rw [b3Of_eq_packB3, packB3_slot]; exact (maskSlot_low n).symm
  case flags3 => rw [b3Of_eq_packB3, b3Of_eq_packB3, packB3_flags, packB3_flags]

end Sys2Proof.Machine
end

section
/-! HSTEP, one direction at a time (R87): a sprite moving right meets only the right wall, one moving left only the left. -/

namespace Sys2Proof.Machine

/-- A sprite moving right goes to `x + 1`, or turns at 255 when that sum wrapped below `x`. -/
theorem hstepSprite_of_plus {sp : Sprite} (hvx : sp.vx = .plus) :
    hstepSprite sp = if sp.x + 1 < sp.x then { sp with x := 255#8, vx := .minus, mir := true }
      else { sp with x := sp.x + 1 } := by
  have hnew : newX sp = sp.x + 1 := by rw [newX_eq, hvx]
  have hleft : wrapsLeft sp = false := by simp [wrapsLeft, hvx]
  have hright : wrapsRight sp = decide (sp.x + 1 < sp.x) := by simp [wrapsRight, hnew, hvx]
  simp only [hstepSprite, mirrorAfter, hright, hleft, hnew, decide_eq_true_eq, Bool.false_eq_true, if_false]
  split <;> rfl

/-- A sprite moving left goes to `x - 1`, or turns at 0 when that difference wrapped above `x`. -/
theorem hstepSprite_of_minus {sp : Sprite} (hvx : sp.vx = .minus) :
    hstepSprite sp = if sp.x < sp.x - 1 then { sp with x := 0#8, vx := .plus, mir := false }
      else { sp with x := sp.x - 1 } := by
  have hnew : newX sp = sp.x - 1 := by rw [newX_eq, hvx]
  have hright : wrapsRight sp = false := by simp [wrapsRight, hvx]
  have hleft : wrapsLeft sp = decide (sp.x < sp.x - 1) := by simp [wrapsLeft, hnew, hvx]
  simp only [hstepSprite, mirrorAfter, hright, hleft, hnew, decide_eq_true_eq, Bool.false_eq_true, if_false]
  split <;> rfl

/-- HSTEP of a written sprite completes and replaces that sprite alone. -/
theorem exec_hstep_written {s : State} {i : Nat} {sp : Sprite} (h : s.sprite i = some sp) :
    exec (.hstep i) s = .next (s.setSprite i (hstepSprite sp)) := onSprite_written hstepSprite h

/-- Settles O21: the step of the written sprite is `hstepSprite`, whose equation for either direction has one branch for the
wall and one for the adopted sum. -/
theorem hstepBouncesOnByteWrap : Obligations.HstepBouncesOnByteWrap := by
  refine ⟨fun _ => rfl, fun s i sp hsp => ⟨hstepSprite sp, exec_hstep_written hsp, ?rightWall, ?right, ?leftWall, ?left⟩⟩
  case rightWall => exact fun hvx hwrap => (hstepSprite_of_plus hvx).trans (if_pos hwrap)
  case right => exact fun hvx hwrap => (hstepSprite_of_plus hvx).trans (if_neg hwrap)
  case leftWall => exact fun hvx hwrap => (hstepSprite_of_minus hvx).trans (if_pos hwrap)
  case left => exact fun hvx hwrap => (hstepSprite_of_minus hvx).trans (if_neg hwrap)

end Sys2Proof.Machine
end

section
/-! Decoding undoes encoding, and the other way round (R53, R66, R67, R69): a packed head unpacks to its fields, a fifth byte
belongs to one format, and both readings of a record, the decoder's and the field view, follow. -/

namespace Sys2Proof.Machine

/-! ## The first four bytes -/

/-- Unpacking a packed head gives its fields back, whatever the E bit. -/
@[simp] theorem unpackHead_pack (h : RecHead) (e : Bool) :
    unpackHead h.x h.y (packB2 h.p h.m h.n h.r h.h) (packB3 h.v e h.s) = h := by simp [unpackHead]

/-- Packing an unpacked head with the E bit it was read with gives the four bytes back. -/
theorem packHead_unpackHead (b0 b1 b2 b3 : Byte) :
    packHead (unpackHead b0 b1 b2 b3) (eBit b3) = [b0, b1, b2, b3] := by
  simp [packHead, unpackHead, packB2_unpack, packB3_unpack]

/-! ## The fifth byte -/

theorem decodeFive_relativeByte (h : RecHead) (t : Bool) : decodeFive h (relativeByte t) = .ok (.rec5r h t) := by
  cases t <;> rfl

theorem decodeFive_anchorByte (h : RecHead) (u : Bool) : decodeFive h (anchorByte u) = .ok (.rec5a h u) := by
  cases u <;> rfl

/-- A scale byte is no relative marker, no anchor byte unless both codes are 0, and holds nothing but its codes. -/
theorem scaleByte_masks : ∀ a b : BitVec 2, scaleByte a b &&& 0xFE#8 ≠ 0x40#8 ∧
    (¬(a = 0#2 ∧ b = 0#2) → scaleByte a b &&& 0xDF#8 ≠ 0x00#8) ∧ scaleByte a b &&& 0xE1#8 = 0x00#8 := by decide

@[simp] theorem scaleByte_xscale : ∀ a b : BitVec 2, (scaleByte a b).extractLsb' 3 2 = a := by decide

@[simp] theorem scaleByte_yscale : ∀ a b : BitVec 2, (scaleByte a b).extractLsb' 1 2 = b := by decide

theorem decodeFive_scaleByte (h : RecHead) {a b : BitVec 2} (hab : ¬(a = 0#2 ∧ b = 0#2)) :
    decodeFive h (scaleByte a b) = .ok (.rec5s h a b) := by
  obtain ⟨hrel, hanchor, hscale⟩ := scaleByte_masks a b
  simp [decodeFive, hrel, hanchor hab, hscale]

/-- Each mask of the decoder leaves one byte: the format's own (R58 to R60). -/
theorem relativeByte_of_mask : ∀ b : Byte, b &&& 0xFE#8 = 0x40#8 → relativeByte (b.getLsbD 0) = b := by decide

theorem anchorByte_of_mask : ∀ b : Byte, b &&& 0xDF#8 = 0x00#8 → anchorByte (b.getLsbD 5) = b := by decide

theorem scaleByte_of_mask : ∀ b : Byte, b &&& 0xE1#8 = 0x00#8 →
    scaleByte (b.extractLsb' 3 2) (b.extractLsb' 1 2) = b := by decide

/-- A scale record is well-formed unless both codes are 0 (R53; log entry 24). -/
theorem rec5s_wf {h : RecHead} {a b : BitVec 2} : (Instr.rec5s h a b).wf = true ↔ ¬(a = 0#2 ∧ b = 0#2) := by
  simp [Instr.wf, imp_iff_not_or]

/-! ## Decode after encode -/

theorem decodeRecord_four (h : RecHead) : decodeRecord (packHead h false) = .ok (.rec4 h) := by
  simp [packHead, decodeRecord]

theorem decodeRecord_five (h : RecHead) (b4 : Byte) : decodeRecord (packHead h true ++ [b4]) = decodeFive h b4 := by
  simp [packHead, decodeRecord]

/-- Settles O12: a command's selector leads to its own row of the table by evaluation; a record unpacks to its head, and its
fifth byte, where it has one, to its format. -/
theorem decodeOfEncodeIsIdentity : Obligations.DecodeOfEncodeIsIdentity := by
  intro i hwf
  cases i with
  | rec4 h => exact decodeRecord_four h
  | rec5s h a b =>
    exact (decodeRecord_five h _).trans (decodeFive_scaleByte h (rec5s_wf.1 hwf))
  | rec5a h u => exact (decodeRecord_five h _).trans (decodeFive_anchorByte h u)
  | rec5r h t => exact (decodeRecord_five h _).trans (decodeFive_relativeByte h t)
  | _ => rfl

/-! ## Encode after decode -/

/-- Which five-byte format the decoder read, with the fifth byte it was read from. -/
theorem decodeFive_ok {h : RecHead} {b4 : Byte} {i : Instr} (hd : decodeFive h b4 = .ok i) :
    encode i = .record (packHead h true ++ [b4]) ∧ i.wf = true := by
  unfold decodeFive at hd
  split at hd
  · next hrel => cases hd; exact ⟨by rw [encode, relativeByte_of_mask b4 hrel], rfl⟩
  · split at hd
    · next hanchor => cases hd; exact ⟨by rw [encode, anchorByte_of_mask b4 hanchor], rfl⟩
    · next hanchor =>
      split at hd
      · next hscale =>
        cases hd
        have hb := scaleByte_of_mask b4 hscale
        refine ⟨by rw [encode, hb], rec5s_wf.2 ?_⟩
        rintro ⟨hx, hy⟩
        rw [← hb, hx, hy] at hanchor
        exact hanchor rfl
      · cases hd

/-- Settles O13: the decoder accepts four bytes with E clear and five with E set, and packing what it unpacked gives them
back. -/
theorem recordDecodingLosesNoBit : Obligations.RecordDecodingLosesNoBit := by
  intro bytes i hd
  change decodeRecord bytes = .ok i at hd
  unfold decodeRecord at hd
  split at hd
  · next b0 b1 b2 b3 =>
    split at hd
    · cases hd
    · next he =>
      cases hd
      have hhead := packHead_unpackHead b0 b1 b2 b3
      rw [Bool.eq_false_iff.2 he] at hhead
      exact ⟨congrArg Request.record hhead, rfl⟩
  · next b0 b1 b2 b3 b4 =>
    split at hd
    · next he =>
      have hhead := packHead_unpackHead b0 b1 b2 b3
      rw [he] at hhead
      simpa [hhead] using decodeFive_ok hd
    · cases hd
  · cases hd

/-! ## The field view (R69) -/

/-- The view of a packed head, the fifth byte aside. -/
theorem viewRecord_pack (h : RecHead) (e : Bool) (b4 : Byte) :
    viewRecord h.x h.y (packB2 h.p h.m h.n h.r h.h) (packB3 h.v e h.s) b4 =
      ⟨BitVec.ofBool h.h ++ h.x, h.y, h.p, h.m, h.n, h.r, h.v, e, h.s, viewFifth e h.x h.y b4⟩ := by
  simp [viewRecord]

theorem viewFifth_scaleByte (b0 b1 : Byte) (a b : BitVec 2) :
    viewFifth true b0 b1 (scaleByte a b) = .plain a b false := by
  have hbits : ∀ a b : BitVec 2, (scaleByte a b).extractLsb' 6 2 ≠ 0b01#2 ∧ (scaleByte a b).getLsbD 5 = false := by decide
  rw [viewFifth, if_pos rfl, if_neg (hbits a b).1, (hbits a b).2, scaleByte_xscale, scaleByte_yscale]

theorem viewFifth_anchorByte (b0 b1 : Byte) (u : Bool) :
    viewFifth true b0 b1 (anchorByte u) = .plain 0#2 0#2 u := by cases u <;> rfl

theorem viewFifth_relativeByte (b0 b1 : Byte) (t : Bool) :
    viewFifth true b0 b1 (relativeByte t) = .relative t b0.toInt b1.toInt := by cases t <;> rfl

/-- Settles O14: the view of a packed head has its fields, and each format's fifth byte has its own view. -/
theorem recordViewReadsFormats : Obligations.RecordViewReadsFormats := by
  intro h a b u t b0 b1 b2 b3 b4 stale
  refine ⟨?rec4, ?rec5s, ?rec5a, ?rec5r⟩
  case rec4 => rintro ⟨⟩; exact viewRecord_pack h false stale
  case rec5s => rintro ⟨⟩; rw [viewRecord_pack, viewFifth_scaleByte]
  case rec5a => rintro ⟨⟩; rw [viewRecord_pack, viewFifth_anchorByte]
  case rec5r => rintro ⟨⟩; rw [viewRecord_pack, viewFifth_relativeByte]

/-! ## Words and selectors -/

/-- Settles O15: seven fixed words, by evaluation. -/
theorem tableWordsDecode : Obligations.TableWordsDecode := by
  refine ⟨?_, ?_, ?_, ?_, ?_, ?_, ?_⟩ <;> decide

/-- The selector table has a row for the assigned selectors only (R66, R74). -/
theorem decodeCommand_unassigned {sel : Byte} (bus : OperandBus) (h : sel.toNat ∉ assignedSelectors) :
    decodeCommand sel bus = .error (.unassignedSelector sel) := by
  unfold decodeCommand
  split
  case h_24 => rfl
  all_goals next hsel => exact absurd (by rw [hsel]; decide) h

/-- A step of an idle machine refuses a request that is no instruction. -/
theorem step_rejected {s : State} {q : Request} {rest : List Input} {e : DecodeError} (hv : s.cfgValid = true)
    (hl : s.engine.loop = .none) (hi : s.env.inputs = .request q :: rest) (hd : decode q = .error e) :
    step s = .refused (.undecodable e) := by
  simp [step, hv, hl, fetchStep, fetch, hi, hd]

/-- Settles O16: the selector has no row, so the request presented first is rejected. -/
theorem unassignedSelectorIsRefused : Obligations.UnassignedSelectorIsRefused :=
  fun _ _ bus _ hv hl hi hsel => step_rejected hv hl hi (decodeCommand_unassigned bus hsel)

end Sys2Proof.Machine
end

section
/-! The invariant (R7, R15, R18, R21, R22, R33, R95): reset meets it, port traffic, engine changes and the beginning of a
loop keep it, and so does every step of the sequencer. -/

namespace Sys2Proof.Machine

/-! ## The parts of the invariant -/

/-- The invariant of a state whose sequencer and sprites are as stated, where the rest is that of a state that meets it. -/
theorem State.Inv.of_engine {s t : State} (h : s.Inv) (hcfg : t.cfg = s.cfg) (hport : t.port = s.port)
    (hpos : tracePos t.trace = tracePos s.trace) (hn : t.nSprites = s.nSprites) (hsprites : t.spritesWf)
    (hseq : t.seqLegal) : t.Inv where
  cfg := by rw [State.cfgValid, hcfg, hn]; exact h.cfg
  slot := by rw [hport, hcfg]; exact h.slot
  attrWf := hport ▸ h.attrWf
  attrRange := by rw [hport, hcfg]; exact h.attrRange
  patWf := hport ▸ h.patWf
  patRange := hport ▸ h.patRange
  palWf := hport ▸ h.palWf
  palRange := hport ▸ h.palRange
  sprites := hsprites
  seq := hseq
  cursor := by rw [hpos, hport]; exact h.cursor

/-- The invariant of a state that differs behind the ports and in the trace only. -/
theorem State.Inv.of_port {s t : State} (h : s.Inv) (hcfg : t.cfg = s.cfg) (hengine : t.engine = s.engine)
    (hok : t.port.Ok t.cfg) (hcursor : t.CursorAgrees) : t.Inv where
  cfg := by rw [State.cfgValid_def, hcfg, hengine]; exact h.cfg
  slot := hok.slot
  attrWf := hok.attrWf
  attrRange := hok.attrRange
  patWf := hok.patWf
  patRange := hok.patRange
  palWf := hok.palWf
  palRange := hok.palRange
  sprites := by rw [State.spritesWf, hcfg, hengine]; exact h.sprites
  seq := by rw [State.seqLegal, State.allWritten_def, hengine]; exact h.seq
  cursor := hcursor

/-- Taking what is presented changes nothing that the invariant reads. -/
theorem State.Inv.takeInput {s : State} (h : s.Inv) : s.takeInput.Inv :=
  h.of_engine rfl rfl rfl rfl h.sprites h.seq

/-! ## Well-formed sprites (R15, R95) -/

/-- Changing one register to a well-formed sprite keeps every register well-formed. -/
theorem setSprite_spritesWf {s : State} {sp : Sprite} (k : Nat) (h : s.spritesWf) (hsp : sp.wf s.cfg) :
    (s.setSprite k sp).spritesWf := by
  intro sp' hmem
  rcases List.mem_or_eq_of_mem_set hmem with hold | hnew
  · exact h sp' hold
  · cases hnew; exact hsp

/-- Stepping every register by a function that keeps a sprite well-formed keeps them all so. -/
theorem mapSprites_wf {cfg : Params} {l : List (Option Sprite)} {f : Sprite → Sprite}
    (hf : ∀ sp : Sprite, sp.wf cfg → (f sp).wf cfg) (h : ∀ sp, some sp ∈ l → sp.wf cfg) :
    ∀ sp, some sp ∈ l.map (Option.map f) → sp.wf cfg := by
  intro sp hmem
  obtain ⟨o, ho, hmap⟩ := List.mem_map.1 hmem
  obtain ⟨old, rfl, rfl⟩ := Option.map_eq_some_iff.1 hmap
  exact hf old (h old ho)

theorem patCycle_spritesWf {s : State} (hp : 0 < s.cfg.patternSet.length) (h : s.spritesWf) : (patCycle s).spritesWf := by
  unfold patCycle
  split
  · exact mapSprites_wf (fun _ => advance_wf hp) h
  · exact h

theorem tickAll_spritesWf {s : State} (hp : 0 < s.cfg.patternSet.length) (h : s.spritesWf) : (tickAll s).spritesWf := by
  have hcycle := patCycle_spritesWf hp h
  rw [State.spritesWf, tickAll_cfg]
  rw [State.spritesWf, patCycle_cfg] at hcycle
  exact mapSprites_wf (fun _ hsp => vstepSprite_wf (hstepSprite_wf hsp)) hcycle

/-- Every sprite that INIT leaves is well-formed, the start position being within the bounds (R7, R84). -/
theorem initAll_spritesWf {s : State} (hv : s.cfgValid = true) : (initAll s).spritesWf := by
  obtain ⟨-, -, hy, hp, -⟩ := cfgValid_facts hv
  intro sp hmem
  obtain ⟨k, hk, hget⟩ := List.mem_iff_getElem.1 hmem
  have hk' : k < s.nSprites := by rwa [← initSprites_length s.cfg s.nSprites 0 s.env]
  obtain ⟨vx, vy, hspawned⟩ := initSprites_get s.cfg 0 s.env hk'
  have hsp : sp = spawned (spawnX s.cfg (0 + k)) (BitVec.ofNat 8 s.cfg.yStart) vx vy := by
    have := (List.getElem?_eq_some_iff.2 ⟨hk, hget⟩).symm.trans hspawned
    simpa using this
  rw [hsp]
  refine spawned_wf ?_ hp
  rw [BitVec.toNat_ofNat]
  exact (Nat.mod_le _ _).trans hy

/-! ## A legal sequencer (R18, R92 to R94) -/

/-- With nothing in progress two of the sequencer's values are ruled out. -/
theorem seqLegal_idle {s : State} (hl : s.engine.loop = .none) :
    s.seqLegal ↔ s.engine.seq ≠ .emit ∧ s.engine.seq ≠ .waitLeave := by rw [State.seqLegal, hl]

/-- A move of the sequencer inside a loop is legal where it does not leave the phases of that loop. -/
theorem seqLegal_moved {s t : State} (h : s.seqLegal) (hl : s.engine.loop ≠ .none) (hloop : t.engine.loop = s.engine.loop)
    (hw : t.allWritten = s.allWritten) (hrun : t.engine.seq ≠ .idle ∧ t.engine.seq ≠ .halt)
    (hwait : s.engine.loop = .wait → t.engine.seq = .waitLeave ∨ t.engine.seq = .waitEnter) : t.seqLegal := by
  rw [State.seqLegal, hloop]
  rw [State.seqLegal] at h
  cases hcase : s.engine.loop with
  | none => exact absurd hcase hl
  | wait => exact hwait hcase
  | frame => rw [hcase] at h; exact ⟨hw.trans h.1, hrun⟩
  | run b => rw [hcase] at h; exact ⟨hw.trans h.1, hrun.1, hrun.2, h.2.2.2⟩

/-- A loop's sequencer is at one of its phases. -/
theorem seqLegal_running {s : State} (h : s.seqLegal) (hl : s.engine.loop ≠ .none) :
    s.engine.seq ≠ .idle ∧ s.engine.seq ≠ .halt ∧
      (s.engine.loop = .wait → s.engine.seq = .waitLeave ∨ s.engine.seq = .waitEnter) := by
  rw [State.seqLegal] at h
  cases hcase : s.engine.loop with
  | none => exact absurd hcase hl
  | wait =>
    rw [hcase] at h
    exact ⟨by rcases h with e | e <;> simp [e], by rcases h with e | e <;> simp [e], fun _ => h⟩
  | frame => rw [hcase] at h; exact ⟨h.2.1, h.2.2, nofun⟩
  | run b => rw [hcase] at h; exact ⟨h.2.1, h.2.2.1, nofun⟩

/-- The end of a wait leaves the sequencer legal, whichever loop it ends or goes on with. -/
theorem frameDone_seqLegal {s : State} (h : s.seqLegal) (hs : s.engine.seq = .waitEnter) : (frameDone s).seqLegal := by
  unfold frameDone
  rw [State.seqLegal] at h
  split
  · next hl => rw [seqLegal_idle hl, hs]; simp
  · rw [seqLegal_idle rfl, State.setLoop_seq, hs]; simp
  · exact ⟨nofun, nofun⟩
  · next hl => rw [hl] at h; simpa [State.seqLegal, State.allWritten_def, hl] using h.1
  · exact ⟨nofun, nofun⟩
  · exact ⟨nofun, nofun⟩
  · next n hl => rw [hl] at h; simpa [State.seqLegal, State.allWritten_def] using h.1

/-! ## What keeps the invariant -/

theorem PortTraffic.inv {s t : State} (h : PortTraffic s t) (hs : s.Inv) : t.Inv :=
  hs.of_port h.frame.1 h.frame.2.1 (h.ok hs.port) (h.cursor hs.cursor)

/-- An external write keeps it too, in mid-record as well: the record position moves with the byte counter. -/
theorem portWrite_inv {s : State} (p : Port) (v : Byte) (hs : s.Inv) : (portWrite s p v).Inv :=
  hs.of_port rfl rfl (portWrite_ok p v hs.port) (portWrite_cursor p v hs.cursor)

theorem EngineChange.spritesWf {s t : State} (h : EngineChange s t) (hv : s.cfgValid = true) (hs : s.spritesWf) :
    t.spritesWf := by
  obtain ⟨-, -, -, hp, -⟩ := cfgValid_facts hv
  cases h with
  | spawn k x y vx vy hk hy => exact setSprite_spritesWf k hs (spawned_wf hy hp)
  | init => exact initAll_spritesWf hv
  | patcycle => exact patCycle_spritesWf hp hs
  | hstep k sp hsp => exact setSprite_spritesWf k hs (hstepSprite_wf (hs sp (sprite_mem hsp)))
  | vstep k sp hsp => exact setSprite_spritesWf k hs (vstepSprite_wf (hs sp (sprite_mem hsp)))
  | tick => exact tickAll_spritesWf hp hs
  | halt => exact hs

theorem EngineChange.inv {s t : State} (h : EngineChange s t) (hl : s.engine.loop = .none) (hs : s.Inv) : t.Inv := by
  obtain ⟨hcfg, hport, htrace, hn, hloop, -, hseq⟩ := h.frame
  refine hs.of_engine hcfg hport (by rw [htrace]) hn (h.spritesWf hs.cfg hs.sprites) ((seqLegal_idle (hloop.trans hl)).2 ?_)
  rcases hseq with e | e
  · rw [e]; exact (seqLegal_idle hl).1 hs.seq
  · rw [e]; exact ⟨nofun, nofun⟩

theorem LoopBegins.inv {s t : State} (h : LoopBegins s t) (hs : s.Inv) : t.Inv := by
  obtain ⟨-, -, -, hp, -⟩ := cfgValid_facts hs.cfg
  obtain ⟨hcfg, hport, hn, -, htrace⟩ := h.keeps
  have hpos : tracePos t.trace = tracePos s.trace := by
    rcases htrace with e | ⟨l, e⟩
    · rw [e]
    · rw [e, tracePos_read]
  cases h with
  | wait =>
    obtain ⟨-, -, hsprites, -, hloop, -, -, hseq⟩ := pollLeave_frame ((s.setLoop .wait).setSeq .waitLeave)
    refine hs.of_engine hcfg hport hpos hn (by rw [State.spritesWf, hcfg, hsprites]; exact hs.sprites) ?_
    rw [State.seqLegal, hloop]
    exact hseq.symm
  | frame hw =>
    refine hs.of_engine hcfg hport hpos hn (tickAll_spritesWf (s := (s.setLoop .frame).setSeq .update) hp hs.sprites) ?_
    rw [State.seqLegal, State.setSeq_loop, tickAll_loop]
    exact ⟨(tickAll_allWritten ((s.setLoop .frame).setSeq .update)).trans hw, nofun, nofun⟩
  | run n hne hw =>
    refine hs.of_engine hcfg hport hpos hn (tickAll_spritesWf (s := (s.setLoop (.run n)).setSeq .update) hp hs.sprites) ?_
    rw [State.seqLegal, State.setSeq_loop, tickAll_loop]
    exact ⟨(tickAll_allWritten ((s.setLoop (.run n)).setSeq .update)).trans hw, nofun, nofun, hne⟩

theorem exec_inv {i : Instr} {s t : State} (hl : s.engine.loop = .none) (hs : s.Inv) (h : exec i s = .next t) : t.Inv := by
  rcases exec_next h with traffic | change | begins
  · exact traffic.inv hs
  · exact change.inv hl hs
  · exact begins.inv hs

/-- One poll of the second wait phase, as the end of the wait or not. -/
theorem pollEnter_inv {s : State} (hs : s.Inv) (hseq : s.engine.seq = .waitEnter) : (pollEnter s).Inv := by
  obtain ⟨hcfg, hport, hsprites, -, htrace, -⟩ := pollEnter_frame s
  refine hs.of_engine hcfg hport (by rw [htrace, tracePos_read]) (congrArg List.length hsprites)
    (by rw [State.spritesWf, hcfg, hsprites]; exact hs.sprites) ?_
  unfold pollEnter
  split
  · exact frameDone_seqLegal (s := s.readLine) hs.seq hseq
  · exact hs.seq

/-- The operation in progress keeps the invariant, phase by phase. -/
theorem sequencerStep_inv {s t : State} (hl : s.engine.loop ≠ .none) (hs : s.Inv) (h : sequencerStep s = .next t) :
    t.Inv := by
  obtain ⟨-, -, -, hp, -⟩ := cfgValid_facts hs.cfg
  obtain ⟨hidle, hhalt, hwait⟩ := seqLegal_running hs.seq hl
  rcases sequencerStep_next h with ⟨hseq, -, rfl⟩ | ⟨-, -, rfl⟩ | ⟨hseq, rfl⟩ | ⟨hseq, rfl⟩ | ⟨hseq | hseq, -⟩
  · refine hs.of_engine (by simp) (by simp) (by simp) (by simp [State.nSprites_def]) (tickAll_spritesWf hp hs.sprites) ?_
    refine seqLegal_moved hs.seq hl (by simp) (tickAll_allWritten s) ⟨nofun, nofun⟩ (fun hw => ?_)
    rcases hwait hw with e | e <;> rw [e] at hseq <;> cases hseq
  · have hemitted := (PortTraffic.emitSprites s).inv hs
    refine hemitted.of_engine rfl rfl rfl rfl hemitted.sprites ?_
    exact seqLegal_moved hemitted.seq (by simpa using hl) rfl rfl ⟨nofun, nofun⟩ (fun _ => .inl rfl)
  · obtain ⟨hcfg, hport, hsprites, -, hloop, htrace, -, hmove⟩ := pollLeave_frame s
    refine hs.of_engine hcfg hport (by rw [htrace, tracePos_read]) (congrArg List.length hsprites)
      (by rw [State.spritesWf, hcfg, hsprites]; exact hs.sprites) ?_
    have hphase : (pollLeave s).engine.seq = .waitLeave ∨ (pollLeave s).engine.seq = .waitEnter := by
      rcases hmove with e | e
      · exact .inr e
      · exact .inl (e.trans hseq)
    refine seqLegal_moved hs.seq hl hloop (congrArg (List.all · Option.isSome) hsprites) ?_ (fun _ => hphase)
    rcases hphase with e | e <;> rw [e] <;> exact ⟨nofun, nofun⟩
  · exact pollEnter_inv hs hseq
  · exact absurd hseq hidle
  · exact absurd hseq hhalt

/-- Settles O52: the cases of what a step can do, each kept by its own lemma. -/
theorem everyStepKeepsInvariant : Obligations.EveryStepKeepsInvariant := by
  intro s t hs h
  obtain ⟨-, ⟨hl, hloop⟩ | ⟨hl, htaken⟩⟩ := step_next h
  · exact sequencerStep_inv hl hs hloop
  · rcases fetchStep_next htaken with ⟨-, rfl⟩ | ⟨_, _, i, -, -, hexec⟩ | ⟨p, v, _, -, -, rfl⟩
    · exact hs
    · exact exec_inv (s := s.takeInput) hl hs.takeInput hexec
    · exact portWrite_inv p v hs.takeInput

/-! ## Reset (R127) -/

theorem reset_sprites : State.reset.engine.sprites = List.replicate 10 none := rfl

/-- Settles O51: nothing is stored or written, so only the slot index and the parameters have anything to check. -/
theorem resetMeetsInvariant : Obligations.ResetMeetsInvariant where
  cfg := by decide
  slot := Nat.mod_lt _ (by decide)
  attrWf := List.Pairwise.nil
  attrRange := nofun
  patWf := List.Pairwise.nil
  patRange := nofun
  palWf := List.Pairwise.nil
  palRange := nofun
  sprites := by intro sp hsp; simp [reset_sprites] at hsp
  seq := ⟨nofun, nofun⟩
  cursor := nofun

/-- Settles O50: each register and store of the reset state is the constant named. -/
theorem resetLeavesNothingWritten : Obligations.ResetLeavesNothingWritten := by
  refine ⟨fun i => ?sprites, rfl, rfl, rfl, rfl, rfl, rfl, fun _ => rfl, fun _ => rfl, fun _ => rfl, rfl, rfl, rfl, rfl, rfl,
    rfl, rfl, rfl, rfl, rfl⟩
  case sprites =>
    rw [State.sprite, reset_sprites, List.getElem?_replicate]
    split <;> rfl

end Sys2Proof.Machine
end

section
/-! What no step and no family of instructions changes: records are never cut short (R131, R135), written sprites stay
written (R14, R28), a loop takes nothing from the interface (R120), and each family keeps to its side (R13, R23, R33). -/

namespace Sys2Proof.Machine

/-! ## Whole records (R126, R131, R135) -/

theorem exec_recordsWhole {i : Instr} {s t : State} (h : exec i s = .next t) (hs : recordsWhole s.trace) :
    recordsWhole t.trace := by
  rcases exec_next h with traffic | change | begins
  · exact traffic.trace.2 hs
  · obtain ⟨-, -, htrace, -⟩ := change.frame
    rwa [htrace]
  · obtain ⟨-, -, -, -, htrace | ⟨l, htrace⟩⟩ := begins.keeps
    · rwa [htrace]
    · rw [htrace]; exact (tracePos_read _ _ _).trans hs

/-- A step of a loop reaches P_ATTR in the emission only, which writes whole records. -/
theorem sequencerStep_recordsWhole {s t : State} (h : sequencerStep s = .next t) (hs : recordsWhole s.trace) :
    recordsWhole t.trace := by
  rcases sequencerStep_next h with ⟨-, -, rfl⟩ | ⟨-, -, rfl⟩ | ⟨-, rfl⟩ | ⟨-, rfl⟩ | ⟨-, rfl⟩
  · simpa using hs
  · exact (PortTraffic.emitSprites s).trace.2 hs
  · obtain ⟨-, -, -, -, -, htrace, -⟩ := pollLeave_frame s
    rw [htrace]; exact (tracePos_read _ _ _).trans hs
  · obtain ⟨-, -, -, -, htrace, -⟩ := pollEnter_frame s
    rw [htrace]; exact (tracePos_read _ _ _).trans hs
  · exact hs

/-- Emitting sprites one after another writes a whole record each. -/
theorem emitFold_traffic (l : List (Option Sprite)) (s : State) : PortTraffic s (l.foldl emitSprite s) := by
  induction l generalizing s with
  | nil => exact .side (.refl s)
  | cons o l ih =>
    refine .trans ?_ (ih (emitSprite s o))
    cases o with
    | none => exact .side (.refl s)
    | some sp => exact .record _ _ (wholeRecord_encExt _)

/-- EMIT_ALL's own slot select makes the trace whole where no slot had been selected before (R135). -/
theorem emitSprites_recordsWhole {s : State} (h : tracePos s.trace = .unselected) : recordsWhole (emitSprites s).trace := by
  have hselected : recordsWhole (portWrite s .slot s.cfg.attrBase).trace := by
    rw [recordsWhole, portWrite_trace, tracePos_append, h]
    rfl
  exact (emitFold_traffic _ _).trace.2 hselected

/-- Settles O55: the loop and the instructions write whole records, and an external write is excluded by the premise. -/
theorem stepsKeepRecordsWhole : Obligations.StepsKeepRecordsWhole := by
  refine ⟨fun s t hext hs h => ?step, fun s t hpos h => ?emitAll⟩
  case step =>
    obtain ⟨-, ⟨-, hloop⟩ | ⟨hl, htaken⟩⟩ := step_next h
    · exact sequencerStep_recordsWhole hloop hs
    · rcases fetchStep_next htaken with ⟨-, rfl⟩ | ⟨_, _, i, -, -, hexec⟩ | ⟨p, v, rest, hin, -⟩
      · exact hs
      · exact exec_recordsWhole hexec hs
      · exact absurd (by rw [hin]; rfl) (hext hl p v)
  case emitAll =>
    obtain ⟨-, rfl⟩ := onAllWritten_next h
    exact emitSprites_recordsWhole hpos

/-! ## Written sprites stay written (R14, R28) -/

/-- The parameters and the size of the register file are the same, and no written register has become unwritten. -/
structure KeepsWritten (s t : State) : Prop where
  cfg : t.cfg = s.cfg
  nSprites : t.nSprites = s.nSprites
  sprite : ∀ i sp, s.sprite i = some sp → ∃ sp', t.sprite i = some sp'

theorem KeepsWritten.of_sprites {s t : State} (hcfg : t.cfg = s.cfg) (hsprites : t.engine.sprites = s.engine.sprites) :
    KeepsWritten s t where
  cfg := hcfg
  nSprites := congrArg List.length hsprites
  sprite i sp hsp := ⟨sp, by rw [State.sprite, hsprites]; exact hsp⟩

/-- Register i after a write to register k. -/
theorem setSprite_sprite_eq (s : State) (k i : Nat) (sp : Sprite) :
    (s.setSprite k sp).sprite i = if k = i ∧ k < s.nSprites then some sp else s.sprite i := by
  simp only [State.sprite, State.setSprite_sprites, List.getElem?_set, State.nSprites]
  by_cases hk : k = i
  · by_cases hi : k < s.engine.sprites.length
    · simp [hk, hk ▸ hi]
    · have hnone : s.engine.sprites[i]? = none := List.getElem?_eq_none (hk ▸ Nat.le_of_not_lt hi)
      simp [hi, hnone]
  · simp [hk]

theorem KeepsWritten.setSprite (s : State) (k : Nat) (sp : Sprite) : KeepsWritten s (s.setSprite k sp) where
  cfg := rfl
  nSprites := List.length_set
  sprite i old hold := by
    rw [setSprite_sprite_eq]
    split
    · exact ⟨sp, rfl⟩
    · exact ⟨old, hold⟩

theorem KeepsWritten.patCycle (s : State) : KeepsWritten s (patCycle s) where
  cfg := patCycle_cfg s
  nSprites := patCycle_length s
  sprite i sp hsp := by rw [patCycle_sprite, hsp]; exact ⟨_, rfl⟩

theorem KeepsWritten.tickAll (s : State) : KeepsWritten s (tickAll s) where
  cfg := tickAll_cfg s
  nSprites := tickAll_length s
  sprite i sp hsp := by rw [tickAll_sprite, patCycle_sprite, hsp]; exact ⟨_, rfl⟩

theorem KeepsWritten.initAll (s : State) : KeepsWritten s (initAll s) where
  cfg := rfl
  nSprites := initSprites_length s.cfg s.nSprites 0 s.env
  sprite i sp hsp := by
    obtain ⟨vx, vy, hget⟩ := initSprites_get s.cfg 0 s.env (sprite_lt hsp)
    exact ⟨_, congrArg Option.join hget⟩

theorem exec_keepsWritten {i : Instr} {s t : State} (h : exec i s = .next t) : KeepsWritten s t := by
  rcases exec_next h with traffic | change | begins
  · exact .of_sprites traffic.frame.1 (congrArg Engine.sprites traffic.frame.2.1)
  · cases change with
    | spawn k x y vx vy => exact .setSprite s k _
    | init => exact .initAll s
    | patcycle => exact .patCycle s
    | hstep k sp => exact .setSprite s k _
    | vstep k sp => exact .setSprite s k _
    | tick => exact .tickAll s
    | halt => exact .of_sprites rfl rfl
  · cases begins with
    | wait =>
      obtain ⟨hcfg, -, hsprites, -⟩ := pollLeave_frame ((s.setLoop .wait).setSeq .waitLeave)
      exact .of_sprites hcfg hsprites
    | frame hw =>
      obtain ⟨hcfg, hn, hsp⟩ := KeepsWritten.tickAll ((s.setLoop .frame).setSeq .update)
      exact ⟨hcfg, hn, hsp⟩
    | run n hne hw =>
      obtain ⟨hcfg, hn, hsp⟩ := KeepsWritten.tickAll ((s.setLoop (.run n)).setSeq .update)
      exact ⟨hcfg, hn, hsp⟩

theorem sequencerStep_keepsWritten {s t : State} (h : sequencerStep s = .next t) : KeepsWritten s t := by
  rcases sequencerStep_next h with ⟨-, -, rfl⟩ | ⟨-, -, rfl⟩ | ⟨-, rfl⟩ | ⟨-, rfl⟩ | ⟨-, rfl⟩
  · obtain ⟨hcfg, hn, hsp⟩ := KeepsWritten.tickAll s
    exact ⟨hcfg, hn, hsp⟩
  · exact .of_sprites (by simp) (by simp)
  · obtain ⟨hcfg, -, hsprites, -⟩ := pollLeave_frame s
    exact .of_sprites hcfg hsprites
  · obtain ⟨hcfg, -, hsprites, -⟩ := pollEnter_frame s
    exact .of_sprites hcfg hsprites
  · exact .of_sprites rfl rfl

/-- Settles O56: by the cases of what a step can do. -/
theorem writtenSpritesStayWritten : Obligations.WrittenSpritesStayWritten := by
  intro s t h
  suffices hk : KeepsWritten s t from ⟨hk.cfg, hk.nSprites, hk.sprite⟩
  obtain ⟨-, ⟨-, hloop⟩ | ⟨-, htaken⟩⟩ := step_next h
  · exact sequencerStep_keepsWritten hloop
  · rcases fetchStep_next htaken with ⟨-, rfl⟩ | ⟨_, _, i, -, -, hexec⟩ | ⟨p, v, _, -, -, rfl⟩
    · exact .of_sprites rfl rfl
    · obtain ⟨hcfg, hn, hsp⟩ := exec_keepsWritten hexec
      exact ⟨hcfg, hn, hsp⟩
    · exact .of_sprites rfl rfl

/-! ## The command interface during a loop (R120) -/

/-- Settles O40: a loop's step reads at most a scanline sample from outside. -/
theorem nothingIsIssuedDuringALoop : Obligations.NothingIsIssuedDuringALoop := by
  intro s t hl h
  obtain ⟨-, ⟨-, hloop⟩ | ⟨hnone, -⟩⟩ := step_next h
  · rcases sequencerStep_next hloop with ⟨-, -, rfl⟩ | ⟨-, -, rfl⟩ | ⟨-, rfl⟩ | ⟨-, rfl⟩ | ⟨-, rfl⟩
    · simp
    · simp
    · obtain ⟨-, -, -, -, -, -, henv, -⟩ := pollLeave_frame s
      rw [henv, dropLine_inputs]
    · obtain ⟨-, -, -, -, -, henv⟩ := pollEnter_frame s
      rw [henv, dropLine_inputs]
    · rfl
  · exact absurd hnone hl

/-! ## One step of an idle machine (R66, R75, R128) -/

theorem takeInput_of_inputs {s : State} {x : Input} {rest : List Input} (h : s.env.inputs = x :: rest) :
    s.takeInput = { s with env := { s.env with inputs := rest } } := by rw [State.takeInput, h]; rfl

/-- Settles O53: `step_presented`, and nothing is fetched from an empty queue. -/
theorem stepExecutesPresentedInstruction : Obligations.StepExecutesPresentedInstruction := by
  intro s hv hl
  refine ⟨fun q rest i hin hd => ?presented, fun hin => ?nothing⟩
  case presented => rw [step_presented hv hl hin hd, takeInput_of_inputs hin]
  case nothing => simp [step, hv, hl, fetchStep, fetch, hin]

theorem step_badConfiguration {s : State} (h : s.cfgValid ≠ true) : step s = .refused .badConfiguration := if_neg h

/-- Settles O58: each disjunct contradicts one clause of a valid configuration. -/
theorem badConfigurationIsRefused : Obligations.BadConfigurationIsRefused := by
  intro s hbad
  refine step_badConfiguration (fun hv => ?_)
  obtain ⟨hn, hx, hy, hlen, hslots, hbase, -⟩ := cfgValid_facts hv
  rcases hbad with h | h | h | h | ⟨k, hk, h⟩ | h
  · omega
  · omega
  · omega
  · rw [h] at hlen; exact absurd hlen (by decide)
  · have := hslots k hk; omega
  · omega

end Sys2Proof.Machine
end

section
/-! The record-writing operations (R76 to R82) and the four record formats (R53): which bytes each writes, where a record
lands and what it leaves alone, and the cursor of P_ATTR (R36). -/

namespace Sys2Proof.Machine

/-! ## Bytes as the numbers the statements name -/

theorem b2Of_b2Nat (r : SpriteRecord) (xhi : Bool) : (b2Of r xhi).toNat = b2Nat r xhi.toNat := b2Of_toNat r xhi

theorem b3Of_b3Nat (r : SpriteRecord) (e : Bool) : (b3Of r e).toNat = b3Nat r e.toNat := b3Of_toNat r e

/-- Byte 2 of a record whose X-high bit is that of a natural number. -/
theorem b2Of_xHigh (r : SpriteRecord) (n : Nat) : (b2Of r (xHigh (BitVec.ofNat 9 n))).toNat = b2Nat r (n % 512 / 256) := by
  rw [b2Of_b2Nat, xHigh_ofNat]

theorem extY8_toNat (r : SpriteRecord) : (extY8 r).toNat = (r.y.toNat + 32) % 256 := BitVec.toNat_ofNat _ 8

theorem unscaled_iff {r : SpriteRecord} : unscaled r = true ↔ r.xscale = 0#2 ∧ r.yscale = 0#2 := by simp [unscaled]

/-- A delta in two's complement is its residue modulo 256 (R72). -/
theorem ofInt8_toNat (d : Int) : ((BitVec.ofInt 8 d).toNat : Int) = d % 256 := by
  rw [BitVec.toNat_ofInt]
  omega

/-- Bit 8 of the biased delta, sign-extended to ten bits: set for the deltas below -32 (R80, D11). -/
theorem biasedDelta_bit8 {dx : Int} (hlo : -128 ≤ dx) (hhi : dx ≤ 127) :
    ((BitVec.ofInt 10 dx + BitVec.ofNat 10 Config.bias).getLsbD 8).toNat = if dx < -32 then 1 else 0 := by
  have hsum : (BitVec.ofInt 10 dx + BitVec.ofNat 10 Config.bias).toNat = ((dx + 32) % 1024).toNat := by
    rw [BitVec.toNat_add, BitVec.toNat_ofInt, BitVec.toNat_ofNat]
    simp only [Config.bias]
    omega
  rw [BitVec.getLsbD, hsum, Nat.testBit_eq_decide_div_mod_eq]
  split
  · have h : ((dx + 32) % 1024).toNat / 2 ^ 8 % 2 = 1 := by omega
    rw [h]; rfl
  · have h : ((dx + 32) % 1024).toNat / 2 ^ 8 % 2 = 0 := by omega
    rw [h]; rfl

theorem relXhi_anchor {cfg : Params} (hmode : cfg.relXhiMode = .anchor) (a : SpriteRecord) (dx : Int) :
    (relXhi cfg a dx).toNat = (a.x + 32) % 512 / 256 := by
  rw [relXhi, hmode]
  exact xHigh_ofNat (a.x + 32)

theorem relXhi_delta {cfg : Params} (hmode : cfg.relXhiMode = .delta) (a : SpriteRecord) {dx : Int} (hlo : -128 ≤ dx)
    (hhi : dx ≤ 127) : (relXhi cfg a dx).toNat = if dx < -32 then 1 else 0 := by
  rw [relXhi, hmode]
  exact biasedDelta_bit8 hlo hhi

/-! ## What each operation writes -/

/-- Settles O1: the event and the reaction of `P_SLOT`. -/
theorem selectSlotResetsCursor : Obligations.SelectSlotResetsCursor := fun _ _ => rfl

/-- Settles O2: the four bytes are those of `encAbsBytes`. -/
theorem encAbsWritesFourBytes : Obligations.EncAbsWritesFourBytes :=
  fun r _ => ⟨_, _, _, rfl, xLow_ofNat r.x, b2Of_xHigh r r.x, b3Of_b3Nat r false⟩

/-- Settles O3: the two forms of `encExtBytes`, by whether the record is scaled. -/
theorem encExtWritesBiasedRecord : Obligations.EncExtWritesBiasedRecord := by
  intro r s
  refine ⟨xLow (extX9 r), extY8 r, b2Of r (xHigh (extX9 r)), b3Of r (!unscaled r), b4Scale r, ?bytes, xLow_ofNat (r.x + 32),
    extY8_toNat r, b2Of_xHigh r (r.x + 32), ?flag, b4Scale_toNat r⟩
  case bytes =>
    by_cases h : r.xscale = 0#2 ∧ r.yscale = 0#2
    · simp only [exec, execEncExt, emit, encExtBytes, unscaled_iff.2 h, if_pos h, if_true, Bool.not_true]
    · simp only [exec, execEncExt, emit, encExtBytes, Bool.eq_false_iff.2 (mt unscaled_iff.1 h), if_neg h,
        Bool.false_eq_true, if_false, Bool.not_false]
  case flag =>
    rw [b3Of_b3Nat]
    by_cases h : r.xscale = 0#2 ∧ r.yscale = 0#2
    · rw [if_pos h, unscaled_iff.2 h]; rfl
    · rw [if_neg h, Bool.eq_false_iff.2 (mt unscaled_iff.1 h)]; rfl

theorem exec_encAnchor {r : SpriteRecord} (u : Bool) (s : State) (h : r.anchorMode = .extendedAnchor) :
    exec (.encAnchor r u) s = .next (emit s (encAnchorBytes s.cfg r u)) := by simp only [exec, execEncAnchor, h]

theorem exec_encRel {r : SpriteRecord} {dx dy : Int} (a : SpriteRecord) (p : Bool) (s : State)
    (h : r.anchorMode = .relativeToAnchor dx dy) : exec (.encRel r a p) s =
      if -128 ≤ dx ∧ dx ≤ 127 ∧ -128 ≤ dy ∧ dy ≤ 127 then .next (emit s (encRelBytes s.cfg r a dx dy p))
      else .refused .delta := by
  simp [exec, execEncRel, h, deltaInRange, and_assoc]

/-- Settles O4: the five bytes of `encAnchorBytes`. -/
theorem encAnchorWritesFiveBytes : Obligations.EncAnchorWritesFiveBytes :=
  fun r u s h => ⟨_, _, _, _, exec_encAnchor u s h, xLow_ofNat (r.x + 32), extY8_toNat r, b2Of_xHigh r (r.x + 32),
    b3Of_b3Nat r true⟩

/-- Settles O5: the five bytes of `encRelBytes`, the X-high bit by the parameter's mode. -/
theorem encRelWritesFiveBytes : Obligations.EncRelWritesFiveBytes := by
  intro r a p dx dy s hm hxlo hxhi hylo hyhi
  refine ⟨_, _, _, _, (exec_encRel a p s hm).trans (if_pos ⟨hxlo, hxhi, hylo, hyhi⟩), ofInt8_toNat dx, ofInt8_toNat dy, ?_,
    b3Of_b3Nat r true⟩
  rw [b2Of_b2Nat]
  cases hmode : s.cfg.relXhiMode with
  | anchor => exact congrArg (b2Nat r) (relXhi_anchor hmode a dx)
  | delta => exact congrArg (b2Nat r) (relXhi_delta hmode a hxlo hxhi)

/-- Settles O6: each of the two operations matches on the mode, and ENC_REL tests the deltas. -/
theorem encodersRefuseMismatchedRecord : Obligations.EncodersRefuseMismatchedRecord := by
  refine ⟨fun r u s h => ?anchor, fun r a p s h => ?mode, fun r a p dx dy s hm h => ?delta⟩
  case anchor =>
    simp only [exec, execEncAnchor]
    split
    · next hm => exact absurd hm h
    · rfl
    · rfl
  case mode =>
    simp only [exec, execEncRel]
    split
    · next dx dy hm => exact absurd hm (h dx dy)
    · rfl
    · rfl
  case delta => exact (exec_encRel a p s hm).trans (if_neg (by omega))

/-- Settles O8: the bytes of the four formats field by field. -/
theorem recordRowsWriteTheirBytes : Obligations.RecordRowsWriteTheirBytes := by
  intro h a b u t s
  refine ⟨packB2 h.p h.m h.n h.r h.h, packB3 h.v false h.s, packB3 h.v true h.s, scaleByte a b, anchorByte u, relativeByte t,
    packB2_toNat _ _ _ _ _, packB3_toNat _ _ _, packB3_toNat _ _ _, scale_bits a b, ?anchor, ?relative, rfl, rfl, rfl, rfl⟩
  case anchor => cases u <;> rfl
  case relative => cases t <;> rfl

/-! ## The cursor of P_ATTR (R36) -/

theorem nextCursor_within (n slot : Nat) {k : Fin 5} (v : Byte) (h : k.val < 3) :
    (nextCursor n slot k v).1 = slot ∧ (nextCursor n slot k v).2.val = k.val + 1 := by
  match k, h with
  | 0, _ => exact ⟨rfl, rfl⟩
  | 1, _ => exact ⟨rfl, rfl⟩
  | 2, _ => exact ⟨rfl, rfl⟩

theorem nextCursor_fifth (n slot : Nat) {k : Fin 5} {v : Byte} (h : k.val = 3) (he : v.getLsbD 6 = true) :
    (nextCursor n slot k v).1 = slot ∧ (nextCursor n slot k v).2.val = 4 := by
  obtain rfl : k = 3 := Fin.ext h
  have hv : eBit v = true := he
  simp [nextCursor, hv]

theorem nextCursor_end (n slot : Nat) {k : Fin 5} {v : Byte} (h : (k.val = 3 ∧ v.getLsbD 6 = false) ∨ k.val = 4) :
    (nextCursor n slot k v).1 = (slot + 1) % n ∧ (nextCursor n slot k v).2.val = 0 := by
  rcases h with ⟨h, he⟩ | h
  · obtain rfl : k = 3 := Fin.ext h
    have hv : eBit v = false := he
    simp [nextCursor, hv]
  · obtain rfl : k = 4 := Fin.ext h
    exact ⟨rfl, rfl⟩

/-- The byte is stored at the cursor. -/
theorem reactAttr_read_same (cfg : Params) (v : Byte) (c : Coproc) :
    (reactAttr cfg v c).readAttr (5 * c.attrSlot + c.attrByte.val) = v := Memory.read_write_same _ _ _ _

/-- Every other byte of the store is as it was. -/
theorem reactAttr_read_other (cfg : Params) (v : Byte) (c : Coproc) {a : Nat} (h : a ≠ 5 * c.attrSlot + c.attrByte.val) :
    (reactAttr cfg v c).readAttr a = c.readAttr a := Memory.read_write_other _ _ _ h

/-- Settles O11: the reaction of `P_ATTR`, its cursor by `nextCursor`. -/
theorem attributePortAdvances : Obligations.AttributePortAdvances := fun s v =>
  ⟨rfl, reactAttr_read_same s.cfg v s.port, fun _ h => reactAttr_read_other s.cfg v s.port h, rfl, rfl, rfl, rfl,
    fun h => nextCursor_within _ _ v h, fun h he => nextCursor_fifth _ _ h he,
    fun h he => nextCursor_end _ _ (.inl ⟨h, he⟩), fun h => nextCursor_end _ _ (.inr h)⟩

/-! ## A whole record from byte 0 (R81) -/

/-- The addresses of a whole record begun at byte 0: the first bytes of its slot, in order. -/
theorem attrAddrs_record (n slot : Nat) {bytes : List Byte} (hb : wholeRecord bytes = true) :
    attrAddrs n slot 0 bytes = (List.range bytes.length).map (5 * slot + ·) := by
  match bytes, hb with
  | [b0, b1, b2, b3], _ => rfl
  | [b0, b1, b2, b3, b4], hb =>
    have he : eBit b3 = true := hb
    simp [attrAddrs, nextCursor, attrAddr, he, List.range_succ]

/-- A whole record begun at byte 0 leaves the cursor at byte 0 of the next slot (R36, D14). -/
theorem attrRun_cursor (cfg : Params) {c : Coproc} {bytes : List Byte} (hc : c.attrByte = 0)
    (hb : wholeRecord bytes = true) :
    (bytes.foldl (fun c v => reactAttr cfg v c) c).attrByte = 0 ∧
    (bytes.foldl (fun c v => reactAttr cfg v c) c).attrSlot = (c.attrSlot + 1) % cfg.nAttrSlots := by
  match bytes, hb with
  | [b0, b1, b2, b3], hb =>
    have he : eBit b3 = false := by simpa [wholeRecord] using hb
    simp [hc, nextCursor, he]
  | [b0, b1, b2, b3, b4], hb =>
    have he : eBit b3 = true := hb
    simp [hc, nextCursor, he]

/-- Where no address is passed twice, each byte of a run stands at its own address afterwards. -/
theorem attrRun_written (cfg : Params) (bytes : List Byte) (c : Coproc)
    (hnodup : (attrAddrs cfg.nAttrSlots c.attrSlot c.attrByte bytes).Nodup) {k a : Nat} {v : Byte}
    (ha : (attrAddrs cfg.nAttrSlots c.attrSlot c.attrByte bytes)[k]? = some a) (hv : bytes[k]? = some v) :
    (bytes.foldl (fun c v => reactAttr cfg v c) c).attr.written a = some v := by
  induction bytes generalizing c k with
  | nil => cases hv
  | cons b bytes ih =>
    simp only [attrAddrs, List.nodup_cons] at hnodup
    rw [List.foldl_cons]
    cases k with
    | zero =>
      cases ha
      cases hv
      rw [attrBytes_written_other cfg bytes _ _ hnodup.1]
      exact Memory.written_write_same _ _ _
    | succ k => exact ih (reactAttr cfg b c) hnodup.2 ha hv

/-- A whole record begun at byte 0 of a slot fills that slot's first bytes and stores nothing else. -/
theorem attrRun_record (cfg : Params) {c : Coproc} {bytes : List Byte} (hc : c.attrByte = 0)
    (hb : wholeRecord bytes = true) :
    (∀ k, k < bytes.length →
      (bytes.foldl (fun c v => reactAttr cfg v c) c).attr.written (5 * c.attrSlot + k) = bytes[k]?) ∧
    ∀ a, (∀ k, k < bytes.length → a ≠ 5 * c.attrSlot + k) →
      (bytes.foldl (fun c v => reactAttr cfg v c) c).attr.written a = c.attr.written a := by
  have haddrs : attrAddrs cfg.nAttrSlots c.attrSlot c.attrByte bytes = (List.range bytes.length).map (5 * c.attrSlot + ·) := by
    rw [hc]; exact attrAddrs_record _ _ hb
  refine ⟨fun k hk => ?_, fun a ha => attrBytes_written_other cfg bytes c a ?_⟩
  · rw [List.getElem?_eq_getElem hk]
    refine attrRun_written cfg bytes c ?_ ?_ (List.getElem?_eq_getElem hk)
    · rw [haddrs]; exact List.nodup_range.map (fun i j h => by simpa using h)
    · rw [haddrs]; simp [hk]
  · rw [haddrs, List.mem_map]
    rintro ⟨k, hk, rfl⟩
    exact ha k (List.mem_range.1 hk) rfl

/-! ## The record-writing operations as one family -/

/-- An operation that writes a record completes, and what it writes is one whole record (R82). -/
theorem exec_recordOf {i : Instr} {s : State} {bytes : List Byte} (h : recordOf s.cfg i = some bytes) :
    exec i s = .next (emit s bytes) ∧ wholeRecord bytes = true := by
  cases i with
  | encAbs r => cases h; exact ⟨rfl, wholeRecord_encAbs r⟩
  | encExt r => cases h; exact ⟨rfl, wholeRecord_encExt r⟩
  | encAnchor r u =>
    simp only [recordOf, Option.ite_none_right_eq_some] at h
    obtain ⟨hm, hbytes⟩ := h
    cases hbytes
    exact ⟨exec_encAnchor u s hm, wholeRecord_encAnchor s.cfg r u⟩
  | encRel r a p =>
    simp only [recordOf] at h
    split at h
    · next dx dy hm =>
      rw [Option.ite_none_right_eq_some] at h
      obtain ⟨hrange, hbytes⟩ := h
      cases hbytes
      exact ⟨(exec_encRel a p s hm).trans (if_pos hrange), wholeRecord_encRel s.cfg r a dx dy p⟩
    · cases h
    · cases h
  | rec4 r => cases h; exact ⟨rfl, wholeRecord_rec4 r⟩
  | rec5s r a b => cases h; exact ⟨rfl, wholeRecord_rec5s r a b⟩
  | rec5a r u => cases h; exact ⟨rfl, wholeRecord_rec5a r u⟩
  | rec5r r t => cases h; exact ⟨rfl, wholeRecord_rec5r r t⟩
  | _ => cases h

theorem wholeRecord_length {bytes : List Byte} (hb : wholeRecord bytes = true) : bytes.length = 4 ∨ bytes.length = 5 := by
  match bytes, hb with
  | [_, _, _, _], _ => exact .inl rfl
  | [_, _, _, _, _], _ => exact .inr rfl

/-- Settles O9: a whole record begun at byte 0 lands in its slot. -/
theorem recordLandsInSelectedSlot : Obligations.RecordLandsInSelectedSlot := by
  intro i bytes s h hc
  obtain ⟨hexec, hb⟩ := exec_recordOf h
  have hport : (emit s bytes).port = bytes.foldl (fun c v => reactAttr s.cfg v c) s.port := portWrites_port s .attr bytes
  obtain ⟨hwritten, -⟩ := attrRun_record s.cfg hc hb
  obtain ⟨hbyte, hslot⟩ := attrRun_cursor s.cfg hc hb
  refine ⟨emit s bytes, hexec, wholeRecord_length hb, fun k hk => ?_, hport ▸ hbyte, hport ▸ hslot⟩
  rw [hport]
  exact Memory.some_read .attr (hwritten k.val hk) (by simp [hk])

/-- Settles O10: a run of record bytes and its frame. -/
theorem recordEmissionFrame : Obligations.RecordEmissionFrame := fun _ bytes s h =>
  ⟨emit s bytes, (exec_recordOf h).1, emit_cfg s bytes, emit_engine s bytes, emit_env s bytes, emit_trace s bytes,
    emit_port s bytes, fun a ha => Memory.read_congr .attr (emit_written_other s bytes a ha)⟩

end Sys2Proof.Machine
end

section
/-! The sprite operations (R83 to R89): SPAWN, INIT, PATCYCLE, HSTEP, VSTEP and TICK on written registers, their refusals,
and what follows of several in a row (R95, R97, R99). -/

namespace Sys2Proof.Machine

/-! ## SPAWN (R83) -/

/-- Settles O17: no check fails, and the register is written. -/
theorem spawnReplacesSprite : Obligations.SpawnReplacesSprite := by
  intro i x y dx dy s hi hy
  simp only [exec, execSpawn, if_neg (Nat.not_le.2 hi), if_neg (Nat.not_lt.2 hy), dirOf_toInt]
  rfl

theorem dirOf_none {v : Int} (h1 : v ≠ 1) (h2 : v ≠ -1) : dirOf v = none := by rw [dirOf, if_neg h1, if_neg h2]

/-- SPAWN that completes replaces one register and nothing else. -/
theorem exec_spawn_next {i : Nat} {x y : Byte} {vx vy : Int} {s t : State} (h : exec (.spawn i x y vx vy) s = .next t) :
    ¬ s.nSprites ≤ i ∧ ¬ 192 < y.toNat ∧
      ∃ dx dy, dirOf vx = some dx ∧ dirOf vy = some dy ∧ t = s.setSprite i (spawned x y dx dy) := by
  simp only [exec, execSpawn] at h
  split at h
  · cases h
  · next hi =>
    split at h
    · cases h
    · next hy =>
      split at h
      · next dx dy hdx hdy => cases h; exact ⟨hi, hy, dx, dy, hdx, hdy, rfl⟩
      · cases h
      · cases h

/-- Settles O18: SPAWN that completes has met every check. -/
theorem spawnRefusesBadOperands : Obligations.SpawnRefusesBadOperands := by
  intro i x y vx vy s hbad
  cases h : exec (.spawn i x y vx vy) s with
  | refused r => exact ⟨r, rfl⟩
  | fault f => nomatch f
  | next t =>
    obtain ⟨hi, hy, dx, dy, hdx, hdy, -⟩ := exec_spawn_next h
    rcases hbad with hb | hb | ⟨h1, h2⟩ | ⟨h1, h2⟩
    · exact absurd hb hi
    · exact absurd hb hy
    · rw [dirOf_none h1 h2] at hdx; cases hdx
    · rw [dirOf_none h1 h2] at hdy; cases hdy

/-! ## INIT (R84, R85) -/

/-- Where the environment holds enough draws INIT takes two a sprite, vx before vy, from sprite 0 on. -/
theorem initSprites_draws (cfg : Params) (n i : Nat) (e : Env) (h : 2 * n ≤ e.draws.length) :
    (initSprites cfg n i e).2.draws = e.draws.drop (2 * n) ∧
      ∀ k dx dy, k < n → e.draws[2 * k]? = some dx → e.draws[2 * k + 1]? = some dy → (initSprites cfg n i e).1[k]? =
        some (some (spawned (spawnX cfg (i + k)) (BitVec.ofNat 8 cfg.yStart) (velocityOf dx) (velocityOf dy))) := by
  induction n generalizing i e with
  | zero => exact ⟨rfl, nofun⟩
  | succ n ih =>
    obtain ⟨d0, d1, ds, hdraws⟩ : ∃ d0 d1 ds, e.draws = d0 :: d1 :: ds := by
      match e.draws, h with
      | d0 :: d1 :: ds, _ => exact ⟨d0, d1, ds, rfl⟩
    have hdrop : e.dropDraw.dropDraw = { e with draws := ds } := by simp [Env.dropDraw, hdraws]
    have hvx : e.drawValue = d0 := by simp [Env.drawValue, hdraws]
    have hvy : e.dropDraw.drawValue = d1 := by simp [Env.drawValue, Env.dropDraw, hdraws]
    rw [hdraws, List.length_cons, List.length_cons] at h
    obtain ⟨hleft, hget⟩ := ih (i + 1) { e with draws := ds } (by simp only; omega)
    simp only [initSprites, hdrop, hvx, hvy, hdraws]
    refine ⟨hleft, fun k dx dy hk hdx hdy => ?_⟩
    cases k with
    | zero => cases hdx; cases hdy; rfl
    | succ k =>
      rw [List.getElem?_cons_succ, hget k dx dy (by omega) hdx hdy, show i + 1 + k = i + (k + 1) by omega]

/-- Settles O19: `initSprites` register by register, whatever is drawn, and with its draws where they are supplied. -/
theorem initSpawnsEverySprite : Obligations.InitSpawnsEverySprite := by
  intro s
  refine ⟨initAll s, rfl, rfl, initSprites_length s.cfg s.nSprites 0 s.env, rfl, rfl, rfl, rfl, rfl,
    initSprites_env s.cfg s.nSprites 0 s.env, fun i hi => ?sprite, fun hdraws => ?draws⟩
  case sprite =>
    obtain ⟨vx, vy, hget⟩ := initSprites_get s.cfg 0 s.env hi
    rw [Nat.zero_add] at hget
    exact ⟨vx, vy, congrArg Option.join hget⟩
  case draws =>
    obtain ⟨hleft, hget⟩ := initSprites_draws s.cfg s.nSprites 0 s.env hdraws
    refine ⟨hleft, fun i sp d e hsp hd he => ?_⟩
    have hi : i < s.nSprites := by
      have := sprite_lt hsp
      rwa [show (initAll s).nSprites = s.nSprites from initSprites_length s.cfg s.nSprites 0 s.env] at this
    have hspawned := (congrArg Option.join (hget i d e hi hd he)).symm.trans hsp
    cases hspawned
    exact ⟨rfl, rfl⟩

theorem initAll_sprite {s : State} {i : Nat} (hi : i < s.nSprites) : ∃ sp, (initAll s).sprite i = some sp := by
  obtain ⟨vx, vy, hget⟩ := initSprites_get s.cfg 0 s.env hi
  exact ⟨_, congrArg Option.join hget⟩

/-! ## PATCYCLE and TICK (R86, R89) -/

theorem phase_succ (p : BitVec 4) : (p + 1).toNat = (p.toNat + 1) % 16 := BitVec.toNat_add p 1

/-- Register i after PATCYCLE with the two cases of the phase inside the pattern field. -/
theorem patCycle_sprite_written {s : State} {i : Nat} {sp : Sprite} (h : s.sprite i = some sp) :
    (patCycle s).sprite i = some { sp with pat :=
      if s.engine.phase.toNat = 15 then (sp.pat + 1) % s.cfg.patternSet.length else sp.pat } := by
  rw [patCycle_sprite, h, Option.map_some]
  split <;> rfl

/-- Settles O20. -/
theorem patcycleAdvancesEverySixteenth : Obligations.PatcycleAdvancesEverySixteenth := fun s hw =>
  ⟨patCycle s, onAllWritten_written patCycle hw, by rw [patCycle_phase, phase_succ], fun _ _ => patCycle_sprite_written,
    patCycle_length s, patCycle_seq s, patCycle_loop s, patCycle_cfg s, patCycle_port s, patCycle_trace s, patCycle_env s⟩

theorem exec_tick_written {s : State} (hw : s.allWritten = true) : exec .tick s = .next (tickAll s) :=
  onAllWritten_written tickAll hw

/-- Settles O23. -/
theorem tickStepsEverySprite : Obligations.TickStepsEverySprite := fun s hw =>
  ⟨tickAll s, exec_tick_written hw, tickAll_phase s, tickAll_length s,
    fun i sp hsp => by rw [tickAll_sprite, patCycle_sprite, hsp]; rfl,
    tickAll_seq s, tickAll_loop s, tickAll_cfg s, tickAll_port s, tickAll_trace s, tickAll_env s⟩

/-! ## HSTEP and VSTEP of one sprite (R87, R88) -/

theorem exec_vstep_written {s : State} {i : Nat} {sp : Sprite} (h : s.sprite i = some sp) :
    exec (.vstep i) s = .next (s.setSprite i (vstepSprite sp)) := onSprite_written vstepSprite h

/-- Below the upper bound and above the lower one VSTEP adopts the sum. -/
theorem vstepSprite_within {sp : Sprite} (h0 : 0 ≤ newY sp) (h1 : newY sp ≤ 192) :
    vstepSprite sp = { sp with y := BitVec.ofInt 8 (newY sp) } := by
  rw [vstepSprite, if_neg (by simpa using h1), if_neg (by simpa using h0)]

theorem vstepSprite_above {sp : Sprite} (h : 192 < newY sp) : vstepSprite sp = { sp with y := 192#8, vy := sp.vy.flip } := by
  rw [vstepSprite, if_pos (by simpa using h)]

theorem vstepSprite_below {sp : Sprite} (h : newY sp < 0) : vstepSprite sp = { sp with y := 0#8, vy := sp.vy.flip } := by
  rw [vstepSprite, if_neg (by simp; omega), if_pos (by simpa using h)]

/-- VSTEP of a well-formed sprite moving down: on to the bound, then a reversal at it. -/
theorem vstepSprite_of_plus {sp : Sprite} (hvy : sp.vy = .plus) (hy : sp.y.toNat ≤ 192) :
    vstepSprite sp = if sp.y.toNat = 192 then { sp with y := 192#8, vy := .minus } else { sp with y := sp.y + 1 } := by
  have hnew : newY sp = sp.y.toNat + 1 := by rw [newY, hvy]; rfl
  split
  · rw [vstepSprite_above (by omega), hvy]; rfl
  · rw [vstepSprite_within (by omega) (by omega), hnew, byte_add_one]

/-- VSTEP of a well-formed sprite moving up: on to 0, then a reversal at it. -/
theorem vstepSprite_of_minus {sp : Sprite} (hvy : sp.vy = .minus) (hy : sp.y.toNat ≤ 192) :
    vstepSprite sp = if sp.y.toNat = 0 then { sp with y := 0#8, vy := .plus } else { sp with y := sp.y - 1 } := by
  have hnew : newY sp = sp.y.toNat + -1 := by rw [newY, hvy]; rfl
  split
  · rw [vstepSprite_below (by omega), hvy]; rfl
  · rw [vstepSprite_within (by omega) (by omega), hnew, byte_sub_one]

/-- The 8-bit realisation that rule R88 quotes, for a well-formed sprite. -/
theorem vstepSprite_eightBit {sp : Sprite} (hy : sp.y.toNat ≤ 192) : vstepSprite sp =
    if sp.vy = .plus ∧ 192 < (BitVec.ofInt 8 (newY sp)).toNat then { sp with y := 192#8, vy := .minus }
    else if sp.vy = .minus ∧ sp.y < BitVec.ofInt 8 (newY sp) then { sp with y := 0#8, vy := .plus }
    else { sp with y := BitVec.ofInt 8 (newY sp) } := by
  cases hvy : sp.vy with
  | plus =>
    have hnew : BitVec.ofInt 8 (newY sp) = sp.y + 1 := by rw [newY, hvy]; exact byte_add_one sp.y
    have hup : 192 < (sp.y + 1).toNat ↔ sp.y.toNat = 192 := by rw [byte_succ]; omega
    rw [vstepSprite_of_plus hvy hy, hnew]
    simp only [hvy, hup, true_and, reduceCtorEq, false_and, if_false]
  | minus =>
    have hnew : BitVec.ofInt 8 (newY sp) = sp.y - 1 := by rw [newY, hvy]; exact byte_sub_one sp.y
    have hdown : sp.y < sp.y - 1 ↔ sp.y.toNat = 0 := by generalize sp.y = y; revert y; decide
    rw [vstepSprite_of_minus hvy hy, hnew]
    simp only [hvy, hdown, true_and, reduceCtorEq, false_and, if_false]

/-- Settles O22: the three branches of `vstepSprite`, and its 8-bit form. -/
theorem vstepClampsAndReverses : Obligations.VstepClampsAndReverses := by
  intro s i sp hsp
  refine ⟨vstepSprite sp, exec_vstep_written hsp, vstepSprite_above, vstepSprite_below, fun h0 h1 => ?within,
    fun hy n hn => ?eightBit⟩
  case within =>
    change 0 ≤ newY sp at h0
    change newY sp ≤ 192 at h1
    rw [vstepSprite_within h0 h1]
    refine ⟨?_, rfl⟩
    change ((BitVec.ofInt 8 (newY sp)).toNat : Int) = newY sp
    rw [ofInt8_toNat]
    omega
  case eightBit =>
    change n = BitVec.ofInt 8 (newY sp) at hn
    rw [hn]
    exact vstepSprite_eightBit hy

/-- HSTEP leaves the mirror flag agreeing with the direction when it did before, and whenever it bounces (R97). -/
theorem hstepSprite_mirror (sp : Sprite) :
    ((sp.mir = true ↔ sp.vx = .minus) → ((hstepSprite sp).mir = true ↔ (hstepSprite sp).vx = .minus)) ∧
    ((hstepSprite sp).vx ≠ sp.vx → ((hstepSprite sp).mir = true ↔ (hstepSprite sp).vx = .minus)) := by
  cases hvx : sp.vx with
  | plus =>
    rw [hstepSprite_of_plus hvx]
    split
    · simp
    · simp [hvx]
  | minus =>
    rw [hstepSprite_of_minus hvx]
    split
    · simp
    · simp [hvx]

/-- Settles O26. -/
theorem mirrorFollowsDirection : Obligations.MirrorFollowsDirection := fun s i sp hsp =>
  ⟨s.setSprite i (hstepSprite sp), hstepSprite sp, exec_hstep_written hsp, setSprite_sprite _ hsp, hstepSprite_mirror sp⟩

/-! ## Refusals (R14, R118) -/

/-- The beginning of a frame is refused while a sprite is unwritten. -/
theorem beginFrame_unwritten {s : State} (hw : s.allWritten = false) (l : Loop) :
    sequencerStep ((s.setLoop l).setSeq .update) = .refused .unwrittenSprite :=
  onAllWritten_unwritten (s := (s.setLoop l).setSeq .update) (fun t => (tickAll t).setSeq .emit) hw

theorem onSprite_unwritten {s : State} {i : Nat} (f : Sprite → Sprite) (hi : i < s.nSprites) (h : s.sprite i = none) :
    onSprite s i f = .refused .unwrittenSprite := by
  rcases onSprite_cases s i f with ⟨hge, -⟩ | ⟨-, e⟩ | ⟨sp, hsp, -⟩
  · exact absurd hi (Nat.not_lt.2 hge)
  · exact e
  · rw [State.sprite, hsp] at h; cases h

theorem onSprite_absent {s : State} {i : Nat} (f : Sprite → Sprite) (hi : s.nSprites ≤ i) :
    onSprite s i f = .refused .spriteIndex := by
  have habsent : s.engine.sprites[i]? = none := List.getElem?_eq_none hi
  rw [onSprite, habsent]

/-- Settles O25: one unwritten register makes `allWritten` false, on which every other operation named depends. -/
theorem unwrittenSpritesAreRefused : Obligations.UnwrittenSpritesAreRefused := by
  intro s
  refine ⟨fun i hi hs => ?unwritten, fun i hi => ⟨onSprite_absent _ hi, onSprite_absent _ hi⟩⟩
  case unwritten =>
    have hw := allWritten_false hi hs
    refine ⟨onSprite_unwritten _ hi hs, onSprite_unwritten _ hi hs, onAllWritten_unwritten _ hw, onAllWritten_unwritten _ hw,
      onAllWritten_unwritten _ hw, beginFrame_unwritten hw _, fun n => ?_⟩
    match n with
    | .finite 0 => exact onAllWritten_unwritten (fun t => t.setSeq .halt) hw
    | .finite (k + 1) => exact beginFrame_unwritten hw _
    | .infinite => exact beginFrame_unwritten hw _

/-! ## Several operations in a row (R70) -/

theorem execList_cons {i : Instr} {s t : State} (is : List Instr) (h : exec i s = .next t) :
    execList (i :: is) s = execList is t := by rw [execList, h]

/-- Repeating an operation that completes as a function `f` of a state with property `P`, which `f` keeps. -/
theorem execList_replicate {i : Instr} {P : State → Prop} {f : State → State}
    (hexec : ∀ s, P s → exec i s = .next (f s)) (hkeep : ∀ s, P s → P (f s)) (k : Nat) {s : State} (hs : P s) :
    execList (List.replicate k i) s = .next (f^[k] s) ∧ P (f^[k] s) := by
  induction k generalizing s with
  | zero => exact ⟨rfl, hs⟩
  | succ k ih =>
    rw [List.replicate_succ, execList_cons _ (hexec s hs)]
    exact ih (hkeep s hs)

/-- HSTEP i; VSTEP i for each register of a tail of the file steps that tail, and leaves the registers before it. -/
theorem execList_stepTail (tail : List (Option Sprite)) (done : List (Option Sprite)) (s : State)
    (hw : tail.all Option.isSome = true) :
    execList ((List.range' done.length tail.length).flatMap (fun i => [.hstep i, .vstep i])) (s.setSprites (done ++ tail)) =
      .next (s.setSprites (done ++ tail.map (Option.map (fun sp => vstepSprite (hstepSprite sp))))) := by
  induction tail generalizing done with
  | nil => rfl
  | cons o tail ih =>
    simp only [List.all_cons, Bool.and_eq_true] at hw
    obtain ⟨ho, htail⟩ := hw
    obtain ⟨sp, rfl⟩ := Option.isSome_iff_exists.1 ho
    have hset : ∀ old new : Sprite, (s.setSprites (done ++ some old :: tail)).setSprite done.length new =
        s.setSprites (done ++ some new :: tail) := by
      intro old new
      simp [State.setSprite, State.setSprites]
    have hget : ∀ sp : Sprite, (s.setSprites (done ++ some sp :: tail)).sprite done.length = some sp := by
      intro sp
      simp [State.sprite]
    rw [List.length_cons, List.range'_succ, List.flatMap_cons, List.cons_append, List.cons_append, List.nil_append,
      execList_cons _ (exec_hstep_written (hget sp)), hset, execList_cons _ (exec_vstep_written (hget _)), hset]
    have hnext := ih (done ++ [some (vstepSprite (hstepSprite sp))]) htail
    simpa using hnext

/-- Settles O24: where a sprite is unwritten both sides are refused at once; else PATCYCLE completes and the steps go
through the file register by register. -/
theorem tickIsItsExpansion : Obligations.TickIsItsExpansion := by
  intro s
  cases hw : s.allWritten with
  | false =>
    have hcycle : exec .patcycle s = .refused .unwrittenSprite := onAllWritten_unwritten patCycle hw
    rw [execList, hcycle]
    exact onAllWritten_unwritten tickAll hw
  | true =>
    have hcycle : exec .patcycle s = .next (patCycle s) := onAllWritten_written patCycle hw
    rw [exec_tick_written hw, execList_cons _ hcycle, List.range_eq_range']
    have hsteps := execList_stepTail (patCycle s).engine.sprites [] (patCycle s) ((patCycle_allWritten s).trans hw)
    rw [patCycle_length] at hsteps
    exact hsteps.symm

/-- What INIT establishes and every TICK keeps: all sprites written, well-formed, as many as before. -/
structure InBounds (cfg : Params) (n : Nat) (s : State) : Prop where
  cfg : s.cfg = cfg
  nSprites : s.nSprites = n
  written : s.allWritten = true
  wf : s.spritesWf

theorem tickAll_inBounds {cfg : Params} {n : Nat} (hp : 0 < cfg.patternSet.length) {s : State} (h : InBounds cfg n s) :
    InBounds cfg n (tickAll s) where
  cfg := (tickAll_cfg s).trans h.cfg
  nSprites := (tickAll_length s).trans h.nSprites
  written := (tickAll_allWritten s).trans h.written
  wf := tickAll_spritesWf (h.cfg ▸ hp) h.wf

theorem initAll_inBounds {s : State} (hv : s.cfgValid = true) : InBounds s.cfg s.nSprites (initAll s) where
  cfg := rfl
  nSprites := initSprites_length s.cfg s.nSprites 0 s.env
  written := by
    cases hw : (initAll s).allWritten with
    | true => rfl
    | false =>
      rw [State.allWritten_def, List.all_eq_false] at hw
      obtain ⟨o, ho, hnone⟩ := hw
      obtain ⟨i, hi, hget⟩ := List.mem_iff_getElem.1 ho
      have hi' : i < s.nSprites := by rwa [← initSprites_length s.cfg s.nSprites 0 s.env]
      obtain ⟨sp, hsp⟩ := initAll_sprite hi'
      rw [State.sprite, List.getElem?_eq_getElem hi, hget] at hsp
      have hsome : o = some sp := hsp
      simp [hsome] at hnone
  wf := initAll_spritesWf hv

/-- Settles O27: INIT establishes the bounds and every tick keeps them. -/
theorem spritesStayInBounds : Obligations.SpritesStayInBounds := by
  intro s k hv
  obtain ⟨-, -, -, hp, -⟩ := cfgValid_facts hv
  obtain ⟨hrun, hb⟩ := execList_replicate (P := InBounds s.cfg s.nSprites) (fun _ h => exec_tick_written h.written)
    (fun _ => tickAll_inBounds hp) k (initAll_inBounds hv)
  refine ⟨_, (execList_cons _ rfl).trans hrun, fun i hi => ?_⟩
  obtain ⟨sp, hsp⟩ := allWritten_sprite hb.written (hb.nSprites.symm ▸ hi)
  obtain ⟨hy, hpat⟩ := hb.wf sp (sprite_mem hsp)
  exact ⟨sp, hsp, hy, Nat.le_of_lt_succ sp.x.isLt, hb.cfg ▸ hpat⟩

/-! ## Periods (R99) -/

/-- Repeating an operation on one sprite steps that sprite as often. -/
theorem execList_sprite {i : Nat} {op : Instr} {f : Sprite → Sprite}
    (hexec : ∀ (s : State) (sp : Sprite), s.sprite i = some sp → exec op s = .next (s.setSprite i (f sp)))
    (k : Nat) (s : State) (sp : Sprite) (h : s.sprite i = some sp) : ∃ t, execList (List.replicate k op) s = .next t ∧ t.sprite i = some (f^[k] sp) := by
  induction k generalizing s sp with
  | zero => exact ⟨s, rfl, h⟩
  | succ k ih =>
    rw [List.replicate_succ, execList_cons _ (hexec s sp h)]
    exact ih _ _ (setSprite_sprite (f sp) h)

/-- A step that moves a position on by one modulo n comes back to it after n steps. -/
theorem iterate_position {α : Type} {P : α → Prop} {f : α → α} {pos : α → Nat} {n : Nat}
    (hlt : ∀ a, P a → pos a < n) (hkeep : ∀ a, P a → P (f a)) (hstep : ∀ a, P a → pos (f a) = (pos a + 1) % n)
    (k : Nat) {a : α} (ha : P a) :
    P (f^[k] a) ∧ pos (f^[k] a) = (pos a + k) % n := by
  induction k with
  | zero => exact ⟨ha, (Nat.mod_eq_of_lt (hlt a ha)).symm⟩
  | succ k ih =>
    obtain ⟨hP, hpos⟩ := ih
    rw [Function.iterate_succ_apply']
    refine ⟨hkeep _ hP, ?_⟩
    rw [hstep _ hP, hpos, Nat.mod_add_mod, Nat.add_assoc]

/-- Where a sprite stands on its horizontal round trip: out from 0 to 255, and back. -/
def horizontalPos (sp : Sprite) : Nat := match sp.vx with | .plus => sp.x.toNat | .minus => 511 - sp.x.toNat

theorem byte_pred {x : Byte} (h : x.toNat ≠ 0) : (x - 1).toNat = x.toNat - 1 := by
  have hp : ∀ x : Byte, x.toNat ≠ 0 → (x - 1).toNat = x.toNat - 1 := by decide
  exact hp x h

theorem horizontalPos_lt (sp : Sprite) : horizontalPos sp < 512 := by
  have := sp.x.isLt
  unfold horizontalPos
  split <;> omega

theorem horizontalPos_hstep (sp : Sprite) : horizontalPos (hstepSprite sp) = (horizontalPos sp + 1) % 512 := by
  have hx := sp.x.isLt
  cases hvx : sp.vx with
  | plus =>
    have hwrap : sp.x + 1 < sp.x ↔ sp.x.toNat = 255 := by rw [BitVec.lt_def, byte_succ]; omega
    rw [hstepSprite_of_plus hvx]
    split
    · next h => simp [horizontalPos, hvx, hwrap.1 h]
    · next h =>
      have h255 := mt hwrap.2 h
      simp only [horizontalPos, hvx, byte_succ]
      omega
  | minus =>
    have hwrap : sp.x < sp.x - 1 ↔ sp.x.toNat = 0 := by generalize sp.x = x; revert x; decide
    rw [hstepSprite_of_minus hvx]
    split
    · next h => simp [horizontalPos, hvx, hwrap.1 h]
    · next h =>
      have h0 := mt hwrap.2 h
      simp only [horizontalPos, hvx, byte_pred h0]
      omega

/-- The position tells x and vx. -/
theorem horizontalPos_inj {sp sp' : Sprite} (h : horizontalPos sp = horizontalPos sp') :
    sp.x = sp'.x ∧ sp.vx = sp'.vx := by
  have hx := sp.x.isLt
  have hx' := sp'.x.isLt
  unfold horizontalPos at h
  cases hv : sp.vx <;> cases hv' : sp'.vx <;> rw [hv, hv'] at h <;> simp only at h
  · exact ⟨BitVec.eq_of_toNat_eq (by omega), rfl⟩
  · omega
  · omega
  · exact ⟨BitVec.eq_of_toNat_eq h, rfl⟩

/-- Where a sprite stands on its vertical round trip: down from 0 to 192, and back. -/
def verticalPos (sp : Sprite) : Nat := match sp.vy with | .plus => sp.y.toNat | .minus => 385 - sp.y.toNat

theorem verticalPos_lt {sp : Sprite} (hy : sp.y.toNat ≤ 192) : verticalPos sp < 386 := by
  unfold verticalPos
  split <;> omega

theorem vstepSprite_inRange {sp : Sprite} (hy : sp.y.toNat ≤ 192) : (vstepSprite sp).y.toNat ≤ 192 := by
  cases hvy : sp.vy with
  | plus =>
    rw [vstepSprite_of_plus hvy hy]
    split
    · simp
    · simp only [byte_succ]; omega
  | minus =>
    rw [vstepSprite_of_minus hvy hy]
    split
    · simp
    · next h => simp only [byte_pred h]; omega

theorem verticalPos_vstep {sp : Sprite} (hy : sp.y.toNat ≤ 192) :
    verticalPos (vstepSprite sp) = (verticalPos sp + 1) % 386 := by
  cases hvy : sp.vy with
  | plus =>
    rw [vstepSprite_of_plus hvy hy]
    split
    · next h => simp [verticalPos, hvy, h]
    · simp only [verticalPos, hvy, byte_succ]; omega
  | minus =>
    rw [vstepSprite_of_minus hvy hy]
    split
    · next h => simp [verticalPos, hvy, h]
    · next h => simp only [verticalPos, hvy, byte_pred h]; omega

/-- Within the bounds the position tells y and vy. -/
theorem verticalPos_inj {sp sp' : Sprite} (hy : sp.y.toNat ≤ 192) (hy' : sp'.y.toNat ≤ 192)
    (h : verticalPos sp = verticalPos sp') : sp.y = sp'.y ∧ sp.vy = sp'.vy := by
  unfold verticalPos at h
  cases hv : sp.vy <;> cases hv' : sp'.vy <;> rw [hv, hv'] at h <;> simp only at h
  · exact ⟨BitVec.eq_of_toNat_eq (by omega), rfl⟩
  · omega
  · omega
  · exact ⟨BitVec.eq_of_toNat_eq h, rfl⟩

theorem vstepSprite_frame (sp : Sprite) :
    vstepSprite sp = { sp with y := (vstepSprite sp).y, vy := (vstepSprite sp).vy } := by
  unfold vstepSprite; split <;> [rfl; split <;> rfl]

/-- VSTEP, however often, changes y and vy only. -/
theorem vstepSprite_iterate (k : Nat) (sp : Sprite) :
    vstepSprite^[k] sp = { sp with y := (vstepSprite^[k] sp).y, vy := (vstepSprite^[k] sp).vy } := by
  induction k with
  | zero => rfl
  | succ k ih =>
    rw [Function.iterate_succ_apply']
    let next := vstepSprite (vstepSprite^[k] sp)
    exact (vstepSprite_frame _).trans (congrArg (fun c : Sprite => { c with y := next.y, vy := next.vy }) ih)

/-- Settles O28: both round trips come back to their position, which tells the fields named. -/
theorem stepsArePeriodic : Obligations.StepsArePeriodic := by
  intro s i sp hsp
  refine ⟨?horizontal, fun hy => ?vertical⟩
  case horizontal =>
    obtain ⟨t, ht, hspt⟩ := execList_sprite (fun _ _ => exec_hstep_written) 512 s sp hsp
    obtain ⟨-, hpos⟩ := iterate_position (P := fun _ => True) (fun a _ => horizontalPos_lt a) (fun _ _ => trivial)
      (fun a _ => horizontalPos_hstep a) 512 (a := sp) trivial
    rw [Nat.add_mod_right, Nat.mod_eq_of_lt (horizontalPos_lt sp)] at hpos
    exact ⟨t, _, ht, hspt, horizontalPos_inj hpos⟩
  case vertical =>
    obtain ⟨t, ht, hspt⟩ := execList_sprite (fun _ _ => exec_vstep_written) 386 s sp hsp
    obtain ⟨hy', hpos⟩ := iterate_position (P := fun a : Sprite => a.y.toNat ≤ 192) (fun _ => verticalPos_lt)
      (fun _ => vstepSprite_inRange) (fun _ => verticalPos_vstep) 386 hy
    rw [Nat.add_mod_right, Nat.mod_eq_of_lt (verticalPos_lt hy)] at hpos
    obtain ⟨hyeq, hvyeq⟩ := verticalPos_inj hy' hy hpos
    rw [vstepSprite_iterate, hyeq, hvyeq] at hspt
    exact ⟨t, ht, hspt⟩

end Sys2Proof.Machine
end

section
/-! EMIT_ALL (R90, R91): its expansion, its bytes, and what the slots show afterwards (R69, R126). -/

namespace Sys2Proof.Machine

/-! ## The record of an animated sprite (R90) -/

/-- The four bytes of an animated sprite's record; it is unscaled, so there is no fifth. -/
def animBytes (cfg : Params) (sp : Sprite) : List Byte := encExtBytes (animRecord cfg sp)

theorem animBytes_eq (cfg : Params) (sp : Sprite) : animBytes cfg sp =
    [xLow (extX9 (animRecord cfg sp)), extY8 (animRecord cfg sp),
      b2Of (animRecord cfg sp) (xHigh (extX9 (animRecord cfg sp))), b3Of (animRecord cfg sp) false] := rfl

@[simp] theorem animBytes_length (cfg : Params) (sp : Sprite) : (animBytes cfg sp).length = 4 := rfl

theorem emitSprite_some (s : State) (sp : Sprite) : emitSprite s (some sp) = emit s (animBytes s.cfg sp) := rfl

/-- Byte 2 as a number: no flag but the mirror flag, and x + 32 is below 512. -/
theorem animRecord_b2 (cfg : Params) (sp : Sprite) :
    (b2Of (animRecord cfg sp) (xHigh (extX9 (animRecord cfg sp)))).toNat =
      16 * (cfg.animPalette.toNat % 16) + 8 * flagNat sp.mir + (sp.x.toNat + 32) / 256 := by
  have hx := sp.x.isLt
  have hb2 := b2Of_xHigh (animRecord cfg sp) (sp.x.toNat + 32)
  simp only [b2Nat, animRecord, flagNat, Bool.toNat_false] at hb2 ⊢
  simp only [extX9, Config.bias]
  omega

theorem animRecord_b3 (cfg : Params) (sp : Sprite) :
    (b3Of (animRecord cfg sp) false).toNat = 128 + (patternSlotOf cfg sp.pat).toNat % 64 :=
  b3Of_b3Nat (animRecord cfg sp) false

/-! ## The emission as operations and as events -/

/-- One ENC_EXT for each written sprite is the emission's loop. -/
theorem execList_encExt (cfg : Params) (l : List (Option Sprite)) (s : State) (hs : s.cfg = cfg) :
    execList (l.filterMap (Option.map (fun sp => .encExt (animRecord cfg sp)))) s = .next (l.foldl emitSprite s) := by
  induction l generalizing s with
  | nil => rfl
  | cons o l ih =>
    cases o with
    | none => exact ih s hs
    | some sp =>
      subst hs
      exact (execList_cons _ rfl).trans (ih (emitSprite s (some sp)) (emitSprite_cfg s _))

theorem exec_emitAll_written {s : State} (hw : s.allWritten = true) : exec .emitAll s = .next (emitSprites s) :=
  onAllWritten_written emitSprites hw

/-- Settles O29. -/
theorem emitAllIsItsExpansion : Obligations.EmitAllIsItsExpansion := fun s hw =>
  (exec_emitAll_written hw).trans (execList_encExt s.cfg _ (portWrite s .slot s.cfg.attrBase) rfl).symm

theorem emitFold_trace (l : List (Option Sprite)) (s : State) :
    (l.foldl emitSprite s).trace = s.trace ++ ((l.filterMap id).flatMap (animBytes s.cfg)).map (Event.w .attr) := by
  induction l generalizing s with
  | nil => simp
  | cons o l ih =>
    cases o with
    | none => exact ih s
    | some sp =>
      rw [List.foldl_cons, ih, emitSprite_some, emit_cfg, emit_trace]
      simp

theorem emitSprites_trace (s : State) : (emitSprites s).trace = s.trace ++ .w .slot s.cfg.attrBase ::
    ((s.engine.sprites.filterMap id).flatMap (animBytes s.cfg)).map (Event.w .attr) := by
  rw [emitSprites, emitFold_trace, portWrite_trace, portWrite_cfg, List.append_assoc]
  rfl

/-- Settles O30. -/
theorem emitAllWritesEverySprite : Obligations.EmitAllWritesEverySprite := fun s hw =>
  ⟨emitSprites s, animBytes s.cfg, exec_emitAll_written hw, emitSprites_trace s,
    fun sp => ⟨_, _, _, _, animBytes_eq s.cfg sp, xLow_ofNat _, extY8_toNat _, animRecord_b2 s.cfg sp,
      animRecord_b3 s.cfg sp⟩,
    emitSprites_engine s, emitSprites_cfg s, emitSprites_env s, emitSprites_port s⟩

/-! ## What the slots hold -/

/-- One sprite emitted from byte 0 of slot p: its four bytes, no other address, and the cursor at the next slot. -/
theorem emitSprite_slot {s : State} (sp : Sprite) (hc : s.port.attrByte = 0) :
    (∀ k, k < 4 → (emitSprite s (some sp)).port.attr.written (5 * s.port.attrSlot + k) = (animBytes s.cfg sp)[k]?) ∧
    (∀ a, (∀ k, k < 4 → a ≠ 5 * s.port.attrSlot + k) →
      (emitSprite s (some sp)).port.attr.written a = s.port.attr.written a) ∧
    (emitSprite s (some sp)).port.attrByte = 0 ∧
    (emitSprite s (some sp)).port.attrSlot = (s.port.attrSlot + 1) % s.cfg.nAttrSlots := by
  have hport : (emitSprite s (some sp)).port = (animBytes s.cfg sp).foldl (fun c v => reactAttr s.cfg v c) s.port :=
    portWrites_port s .attr _
  have hwhole : wholeRecord (animBytes s.cfg sp) = true := wholeRecord_encExt _
  obtain ⟨hin, hout⟩ := attrRun_record s.cfg hc hwhole
  rw [hport]
  exact ⟨hin, hout, attrRun_cursor s.cfg hc hwhole⟩

/-- Sprites emitted from slot p on, as many as there are slots left: sprite i's bytes in slot p + i, no other address, and
the cursor at the slot after the last. -/
theorem emitFold_slots (l : List (Option Sprite)) (p : Nat) (s : State) (hc : s.port.attrByte = 0)
    (hp : s.port.attrSlot = p % s.cfg.nAttrSlots) (hfit : p + l.length ≤ s.cfg.nAttrSlots)
    (hw : l.all Option.isSome = true) :
    (∀ i sp k, l[i]? = some (some sp) → k < 4 →
      (l.foldl emitSprite s).port.attr.written (5 * (p + i) + k) = (animBytes s.cfg sp)[k]?) ∧
    (∀ a, (∀ i k, i < l.length → k < 4 → a ≠ 5 * (p + i) + k) →
      (l.foldl emitSprite s).port.attr.written a = s.port.attr.written a) ∧
    (l.foldl emitSprite s).port.attrByte = 0 ∧
    (l.foldl emitSprite s).port.attrSlot = (p + l.length) % s.cfg.nAttrSlots := by
  induction l generalizing p s with
  | nil => exact ⟨nofun, fun _ _ => rfl, hc, hp⟩
  | cons o l ih =>
    simp only [List.all_cons, Bool.and_eq_true] at hw
    obtain ⟨ho, hl⟩ := hw
    obtain ⟨sp, rfl⟩ := Option.isSome_iff_exists.1 ho
    rw [List.length_cons] at hfit
    rw [Nat.mod_eq_of_lt (by omega)] at hp
    obtain ⟨hin, hout, hbyte, hslot⟩ := emitSprite_slot sp hc
    rw [hp] at hin hout hslot
    obtain ⟨hin', hout', hbyte', hslot'⟩ := ih (p + 1) (emitSprite s (some sp)) hbyte (by rw [hslot, emitSprite_cfg])
      (by rw [emitSprite_cfg]; omega) hl
    rw [emitSprite_cfg] at hin' hslot'
    simp only [List.foldl_cons, List.length_cons]
    refine ⟨fun i sp' k hi hk => ?_, fun a ha => ?_, hbyte', by rw [hslot']; congr 1; omega⟩
    · cases i with
      | zero =>
        cases hi
        rw [hout' _ (fun i k' _ hk' => by omega)]
        exact hin k hk
      | succ i =>
        rw [show p + (i + 1) = p + 1 + i by omega]
        exact hin' i sp' k hi hk
    · rw [hout' a (fun i k hi hk => ?_)]
      · exact hout a (fun k hk => by simpa using ha 0 k (by omega) hk)
      · have := ha (i + 1) k (by omega) hk
        omega

/-- A 9-bit X is its high bit before its low byte. -/
theorem xHigh_append_xLow (x : BitVec 9) : BitVec.ofBool (xHigh x) ++ xLow x = x := by
  apply BitVec.eq_of_toNat_eq
  have hx := x.isLt
  have hlow : (xLow x).toNat = x.toNat % 256 := by simpa using xLow_ofNat x.toNat
  have hhigh : (xHigh x).toNat = x.toNat % 512 / 256 := by simpa using xHigh_ofNat x.toNat
  have happend : (BitVec.ofBool (xHigh x) ++ xLow x).toNat = (xHigh x).toNat * 256 + (xLow x).toNat := by
    rw [BitVec.toNat_append, ← Nat.shiftLeft_add_eq_or_of_lt (xLow x).isLt, Nat.shiftLeft_eq, BitVec.toNat_ofBool]
  omega

/-- The field view of an animated sprite's bytes, whatever a stale fifth byte holds (R69). -/
theorem viewRecord_animRecord (cfg : Params) (sp : Sprite) (b4 : Byte) :
    viewRecord (xLow (extX9 (animRecord cfg sp))) (extY8 (animRecord cfg sp))
      (b2Of (animRecord cfg sp) (xHigh (extX9 (animRecord cfg sp)))) (b3Of (animRecord cfg sp) false) b4 =
      spriteView cfg sp := by
  rw [b2Of_eq_packB2, b3Of_eq_packB3]
  refine (viewRecord_pack ⟨_, _, _, _, _, _, _, _, _⟩ false b4).trans ?_
  rw [spriteView]
  congr 1
  exact xHigh_append_xLow (extX9 (animRecord cfg sp))

/-- Settles O31: the slot select and the loop from its slot on. -/
theorem emitAllShowsEverySprite : Obligations.EmitAllShowsEverySprite := by
  intro s hv hw
  obtain ⟨-, -, -, -, -, hbase, -⟩ := cfgValid_facts hv
  obtain ⟨hin, hout, hbyte, hslot⟩ :=
    emitFold_slots s.engine.sprites s.cfg.attrBase.toNat (portWrite s .slot s.cfg.attrBase) rfl rfl hbase hw
  refine ⟨emitSprites s, exec_emitAll_written hw, fun i sp hsp => ?_, hbyte, hslot,
    fun a ha => Memory.read_congr .attr (hout a ha)⟩
  have hi : s.engine.sprites[i]? = some (some sp) := by simpa [State.sprite, Option.join_eq_some_iff] using hsp
  have hread : ∀ k v, k < 4 → (animBytes s.cfg sp)[k]? = some v →
      (emitSprites s).port.readAttr (5 * (s.cfg.attrBase.toNat + i) + k) = v :=
    fun k v hk hget => Memory.read_of_written .attr ((hin i sp k hi hk).trans hget)
  have h0 := hread 0 _ (by decide) rfl
  have h1 := hread 1 _ (by decide) rfl
  have h2 := hread 2 _ (by decide) rfl
  have h3 := hread 3 _ (by decide) rfl
  change viewRecord ((emitSprites s).port.readAttr (5 * (s.cfg.attrBase.toNat + i) + 0))
    ((emitSprites s).port.readAttr (5 * (s.cfg.attrBase.toNat + i) + 1))
    ((emitSprites s).port.readAttr (5 * (s.cfg.attrBase.toNat + i) + 2))
    ((emitSprites s).port.readAttr (5 * (s.cfg.attrBase.toNat + i) + 3)) _ = _
  rw [h0, h1, h2, h3]
  exact viewRecord_animRecord s.cfg sp _

end Sys2Proof.Machine
end

section
/-! The sequencer (R18, R92 to R94): the first step of a loop, its phases one step each, the end of a wait, and whole runs of
WAIT_FRAME, FRAME and RUN over the samples that end their waits. -/

namespace Sys2Proof.Machine

/-! ## One poll (R92) -/

theorem pollLeave_on {s : State} (h : s.lineValue = 192) : pollLeave s = s.readLine := if_pos h

theorem pollLeave_off {s : State} (h : s.lineValue ≠ 192) : pollLeave s = s.readLine.setSeq .waitEnter := if_neg h

theorem pollEnter_on {s : State} (h : s.lineValue = 192) : pollEnter s = frameDone s.readLine := if_pos h

theorem pollEnter_off {s : State} (h : s.lineValue ≠ 192) : pollEnter s = s.readLine := if_neg h

/-- Settles O32: the first poll is one of WAIT_LEAVE. -/
theorem waitFramePollsOnce : Obligations.WaitFramePollsOnce := by
  intro s
  obtain ⟨hcfg, hport, -, -, -, htrace, henv, -⟩ := pollLeave_frame ((s.setLoop .wait).setSeq .waitLeave)
  refine ⟨pollLeave ((s.setLoop .wait).setSeq .waitLeave), rfl, htrace, ?_, hcfg, hport, henv⟩
  by_cases h : s.lineValue = 192
  · rw [pollLeave_on (s := (s.setLoop .wait).setSeq .waitLeave) h, if_pos h]; rfl
  · rw [pollLeave_off (s := (s.setLoop .wait).setSeq .waitLeave) h, if_neg h]; rfl

/-! ## One step of each phase (R18, R93) -/

section
variable {s : State} (hv : s.cfgValid = true) (hl : s.engine.loop ≠ .none)
include hv hl

theorem step_update (hseq : s.engine.seq = .update) (hw : s.allWritten = true) :
    step s = .next ((tickAll s).setSeq .emit) := by
  rw [step_inLoop hv hl, sequencerStep, hseq]
  exact onAllWritten_written _ hw

theorem step_emit (hseq : s.engine.seq = .emit) (hw : s.allWritten = true) :
    step s = .next ((emitSprites s).setSeq .waitLeave) := by
  rw [step_inLoop hv hl, sequencerStep, hseq]
  exact onAllWritten_written _ hw

theorem step_waitLeave (hseq : s.engine.seq = .waitLeave) : step s = .next (pollLeave s) := by
  rw [step_inLoop hv hl, sequencerStep, hseq]

theorem step_waitEnter (hseq : s.engine.seq = .waitEnter) : step s = .next (pollEnter s) := by
  rw [step_inLoop hv hl, sequencerStep, hseq]

end

theorem readLine_eq (s : State) :
    s.readLine = { s with trace := s.trace ++ [.r .line s.lineValue], env := s.env.dropLine } := rfl

/-- The end of a wait, loop by loop (R92 to R94, R98). -/
theorem frameDone_loops (s : State) :
    (s.engine.loop = .wait → (frameDone s).engine.seq = s.engine.seq ∧ (frameDone s).engine.loop = .none) ∧
    (s.engine.loop = .frame → (frameDone s).engine.seq = .update ∧ (frameDone s).engine.loop = .none) ∧
    (s.engine.loop = .run .infinite →
      (frameDone s).engine.seq = .update ∧ (frameDone s).engine.loop = .run .infinite) ∧
    (s.engine.loop = .run (.finite 1) → (frameDone s).engine.seq = .halt ∧ (frameDone s).engine.loop = .none) ∧
    ∀ n, 2 ≤ n → s.engine.loop = .run (.finite n) →
      (frameDone s).engine.seq = .update ∧ (frameDone s).engine.loop = .run (.finite (n - 1)) := by
  refine ⟨fun h => ?_, fun h => ?_, fun h => ?_, fun h => ?_, fun n hn h => ?_⟩
  · simp [frameDone, h]
  · simp [frameDone, h]
  · simp [frameDone, h]
  · simp [frameDone, h]
  · obtain ⟨m, rfl⟩ := Nat.exists_eq_add_of_le' hn
    simp [frameDone, h]

/-- At the end of a wait the operation is over, or its next frame is due. -/
theorem frameDone_overOrDue {s : State} (h : s.engine.loop ≠ .none) :
    (frameDone s).engine.loop = .none ∨ (frameDone s).engine.seq = .update := by
  unfold frameDone
  split
  · next hl => exact absurd hl h
  · exact .inl rfl
  · exact .inl rfl
  · exact .inr rfl
  · exact .inl rfl
  · exact .inl rfl
  · exact .inr rfl

/-- Settles O33: a poll off its condition reads and stays, a poll on it moves on. -/
theorem waitStaysUntilBeamMoves : Obligations.WaitStaysUntilBeamMoves := by
  intro s hv hl
  refine ⟨fun hseq h => ?leaveStays, fun hseq h => ?enterStays, fun hseq h => ?leaveEnds, fun hseq h => ?enterEnds⟩
  case leaveStays => rw [step_waitLeave hv hl hseq, pollLeave_on h, readLine_eq, h]
  case enterStays => rw [step_waitEnter hv hl hseq, pollEnter_off h, readLine_eq]
  case leaveEnds => rw [step_waitLeave hv hl hseq, pollLeave_off h, readLine_eq]; rfl
  case enterEnds =>
    obtain ⟨hcfg, hport, hsprites, hphase, htrace, henv⟩ := pollEnter_frame s
    rw [h] at htrace
    refine ⟨pollEnter s, step_waitEnter hv hl hseq, ?_, htrace, henv, hsprites, hphase, hport, hcfg⟩
    rw [pollEnter_on h]
    exact frameDone_overOrDue (s := s.readLine) hl

/-- Settles O37: one step of each phase, and the end of the wait loop by loop. -/
theorem sequencerCyclesThroughPhases : Obligations.SequencerCyclesThroughPhases := by
  intro s hv hl
  refine ⟨step_update hv hl, step_emit hv hl, fun hseq h => ?_⟩
  obtain ⟨hcfg, hport, hsprites, hphase, htrace, henv⟩ := pollEnter_frame s
  obtain ⟨hwait, hframe, hinfinite, hlast, hmore⟩ := frameDone_loops s.readLine
  rw [h] at htrace
  refine ⟨pollEnter s, step_waitEnter hv hl hseq, htrace, henv, hport, hcfg, hsprites, hphase, ?_⟩
  rw [pollEnter_on h]
  exact ⟨fun e => ⟨(hwait e).1.trans hseq, (hwait e).2⟩, hframe, hinfinite, hlast, hmore⟩

/-! ## The first step of FRAME and RUN (R93, R94) -/

/-- What a tick makes of one sprite, the phase before it given. -/
def tickSprite (cfg : Params) (phase : BitVec 4) (sp : Sprite) : Sprite :=
  vstepSprite (hstepSprite (if phase + 1 = 0#4 then advancePattern cfg sp else sp))

/-- A tick reads the parameters, the sprites and the phase, and writes the last two. -/
theorem tickAll_eq (s : State) : tickAll s = (s.setPhase (s.engine.phase + 1)).setSprites
    (s.engine.sprites.map (Option.map (tickSprite s.cfg s.engine.phase))) := by
  unfold tickAll patCycle stepSprites tickSprite
  split
  · simp only [State.setSprites_sprites, List.map_map, Option.map_comp_map]; rfl
  · rfl

theorem tickAll_setLoop (s : State) (l : Loop) : tickAll (s.setLoop l) = (tickAll s).setLoop l := by
  rw [tickAll_eq, tickAll_eq]; rfl

theorem tickAll_setSeq (s : State) (q : Seq) : tickAll (s.setSeq q) = (tickAll s).setSeq q := by
  rw [tickAll_eq, tickAll_eq]; rfl

theorem beginFrame_written {s : State} (hw : s.allWritten = true) (l : Loop) :
    sequencerStep ((s.setLoop l).setSeq .update) =
      .next { tickAll s with engine := { (tickAll s).engine with seq := .emit, loop := l } } := by
  refine (onAllWritten_written (s := (s.setLoop l).setSeq .update) (fun t => (tickAll t).setSeq .emit) hw).trans ?_
  rw [tickAll_setSeq, tickAll_setLoop]
  rfl

/-- Settles O35. -/
theorem frameBeginsWithTick : Obligations.FrameBeginsWithTick := fun _ hw => beginFrame_written hw .frame

/-- Settles O36: RUN 0 only moves the sequencer; any other budget begins a frame. -/
theorem runBeginsWithTick : Obligations.RunBeginsWithTick := by
  intro s hw
  refine ⟨onAllWritten_written (fun t => t.setSeq .halt) hw, fun n hn => ?_⟩
  match n, hn with
  | .finite 0, hn => exact absurd rfl hn
  | .finite (k + 1), _ => exact beginFrame_written hw _
  | .infinite, _ => exact beginFrame_written hw _

/-! ## A whole wait (R92) -/

theorem afterReads_nil {s : State} {rest : List Nat} (h : s.env.line = rest) : s.afterReads [] rest = s := by
  subst h
  simp [State.afterReads]

theorem afterReads_append (s : State) (ls ms rest rest' : List Nat) :
    (s.afterReads ls rest).afterReads ms rest' = s.afterReads (ls ++ ms) rest' := by simp [State.afterReads]

theorem readLine_cons {s : State} {l : Nat} {rest : List Nat} (h : s.env.line = l :: rest) (hl : l < 2 ^ s.cfg.lineW) :
    s.readLine = s.afterReads [l] rest := by rw [readLine_eq, lineValue_cons h hl, dropLine_cons h]; rfl

/-- A run of samples none of which moves the wait on: one step each, which reads and stays. -/
theorem runSteps_stay (ls rest : List Nat) (s : State) (hv : s.cfgValid = true) (hl : s.engine.loop ≠ .none)
    (hline : s.env.line = ls ++ rest) (hwidth : ∀ l ∈ ls, l < 2 ^ s.cfg.lineW)
    (hstay : (s.engine.seq = .waitLeave ∧ ∀ l ∈ ls, l = 192) ∨
      (s.engine.seq = .waitEnter ∧ ∀ l ∈ ls, l ≠ 192)) :
    runSteps ls.length s = .next (s.afterReads ls rest) := by
  induction ls generalizing s with
  | nil => rw [afterReads_nil (rest := rest) hline]; rfl
  | cons l ls ih =>
    have hlw := hwidth l (by simp)
    have hvalue := lineValue_cons hline hlw
    have hstep : step s = .next (s.afterReads [l] (ls ++ rest)) := by
      rw [← readLine_cons (rest := ls ++ rest) hline hlw]
      rcases hstay with ⟨hseq, h⟩ | ⟨hseq, h⟩
      · rw [step_waitLeave hv hl hseq, pollLeave_on (hvalue.trans (h l (by simp)))]
      · rw [step_waitEnter hv hl hseq, pollEnter_off (hvalue ▸ h l (by simp))]
    have hrest := ih (s.afterReads [l] (ls ++ rest)) hv hl rfl (fun m hm => hwidth m (by simp [hm]))
      (hstay.imp (And.imp_right fun h m hm => h m (by simp [hm])) (And.imp_right fun h m hm => h m (by simp [hm])))
    rw [List.length_cons, runSteps_succ hstep, hrest, afterReads_append, List.singleton_append]

/-- A whole wait from WAIT_LEAVE: one step a sample, after which the wait has ended. -/
theorem runSteps_wait {s : State} {samples rest : List Nat} (hv : s.cfgValid = true) (hl : s.engine.loop ≠ .none)
    (hseq : s.engine.seq = .waitLeave) (hs : waitSamples s.cfg samples) (hline : s.env.line = samples ++ rest) :
    runSteps samples.length s = .next (frameDone ((s.afterReads samples rest).setSeq .waitEnter)) := by
  obtain ⟨pre, mid, off, rfl, hpre, hoff, hmid, hwidth⟩ := hs
  have hwpre : ∀ l ∈ pre, l < 2 ^ s.cfg.lineW := fun l hm => hwidth l (by simp [hm])
  have hwoff : off < 2 ^ s.cfg.lineW := hwidth off (by simp)
  have hwmid : ∀ l ∈ mid, l < 2 ^ s.cfg.lineW := fun l hm => hwidth l (by simp [hm])
  have hwend : 192 < 2 ^ s.cfg.lineW := hwidth 192 (by simp)
  have hrun1 := runSteps_stay pre (off :: (mid ++ 192 :: rest)) s hv hl (by simp [hline]) hwpre (.inl ⟨hseq, hpre⟩)
  let s1 := s.afterReads pre (off :: (mid ++ 192 :: rest))
  let s2 := (s1.afterReads [off] (mid ++ 192 :: rest)).setSeq .waitEnter
  have hstep2 : step s1 = .next s2 := by
    rw [step_waitLeave (s := s1) hv hl hseq, pollLeave_off (lineValue_cons (s := s1) rfl hwoff ▸ hoff),
      readLine_cons (s := s1) rfl hwoff]
  have hrun3 := runSteps_stay mid (192 :: rest) s2 hv hl rfl hwmid (.inr ⟨rfl, hmid⟩)
  let s3 := s2.afterReads mid (192 :: rest)
  have hstep4 : step s3 = .next (frameDone (s3.afterReads [192] rest)) := by
    rw [step_waitEnter (s := s3) hv hl rfl, pollEnter_on (lineValue_cons (s := s3) rfl hwend),
      readLine_cons (s := s3) rfl hwend]
  have hend : s3.afterReads [192] rest = (s.afterReads (pre ++ off :: mid ++ [192]) rest).setSeq .waitEnter := by
    simp [s3, s2, s1, State.afterReads, State.setSeq]
  have hlen : (pre ++ off :: mid ++ [192]).length = pre.length + (mid.length + 1 + 1) := by
    simp only [List.length_append, List.length_cons, List.length_nil]
    omega
  rw [hlen, runSteps_add _ hrun1, runSteps_succ hstep2, runSteps_add 1 hrun3, runSteps_succ hstep4, hend, runSteps_zero]

/-- An operation that begins a loop takes its first step at once: a run from the request is a run of the loop. -/
theorem runSteps_begin {s u : State} {i : Instr} {rest : List Input} (k : Nat) (hv : s.cfgValid = true)
    (hl : s.engine.loop = .none) (hi : s.env.inputs = .request (encode i) :: rest) (hd : decode (encode i) = .ok i)
    (hexec : exec i s.takeInput = sequencerStep u) (huv : u.cfgValid = true) (hul : u.engine.loop ≠ .none) :
    runSteps (k + 1) s = runSteps (k + 1) u := by
  rw [runSteps, runSteps, step_presented hv hl hi hd, hexec, step_inLoop huv hul]

theorem waitSamples_pos {cfg : Params} {samples : List Nat} (h : waitSamples cfg samples) : 1 ≤ samples.length := by
  obtain ⟨pre, mid, off, rfl, -⟩ := h
  rw [List.length_append]
  exact Nat.le_add_left 1 _

/-- Naming a loop and then none again leaves a state that had none. -/
theorem setLoop_none {s : State} (h : s.engine.loop = .none) : s.setLoop .none = s := by
  rw [State.setLoop, ← h]

/-- Settles O34: the wait of WAIT_FRAME's own loop, its end naming no loop again. -/
theorem waitFrameEndsWithSamples : Obligations.WaitFrameEndsWithSamples := by
  intro s samples rest more hv hl hs hline hin
  obtain ⟨k, hk⟩ := Nat.exists_eq_add_of_le' (waitSamples_pos hs)
  rw [core_run_eq, hk, runSteps_begin k hv hl hin rfl rfl (u := (s.takeInput.setLoop .wait).setSeq .waitLeave) hv nofun,
    ← hk, runSteps_wait (s := (s.takeInput.setLoop .wait).setSeq .waitLeave) hv nofun rfl hs hline]
  exact congrArg Host.Outcome.next (setLoop_none (s := (s.takeInput.afterReads samples rest).setSeq .waitEnter) hl)

/-! ## A whole frame (R93) -/

/-- The state at the end of a frame's wait, before the loop says how it goes on. -/
def frameEnd (s : State) (samples rest : List Nat) : State :=
  ((emitSprites ((tickAll s).setSeq .emit)).afterReads samples rest).setSeq .waitEnter

/-- The tick, the emission and the wait of one frame of a loop. -/
theorem runSteps_frame {s : State} {samples rest : List Nat} (hv : s.cfgValid = true) (hl : s.engine.loop ≠ .none)
    (hseq : s.engine.seq = .update) (hw : s.allWritten = true) (hs : waitSamples s.cfg samples)
    (hline : s.env.line = samples ++ rest) :
    runSteps (samples.length + 2) s = .next (frameDone (frameEnd s samples rest)) := by
  let t := (tickAll s).setSeq .emit
  have htv : t.cfgValid = true := by
    rw [← hv, State.cfgValid_def, State.cfgValid_def]
    exact congrArg₂ Params.valid (tickAll_cfg s) (tickAll_length s)
  have htl : t.engine.loop ≠ .none := by simpa [t] using hl
  have hstep2 : step t = .next ((emitSprites t).setSeq .waitLeave) :=
    step_emit htv htl rfl ((tickAll_allWritten s).trans hw)
  have hwait := runSteps_wait (s := (emitSprites t).setSeq .waitLeave) (samples := samples) (rest := rest)
    (by simpa [State.cfgValid_def] using htv) (by simpa using htl) rfl (by simpa [t] using hs) (by simpa [t] using hline)
  rw [runSteps_succ (step_update hv hl hseq hw), runSteps_succ hstep2]
  exact hwait

theorem emitSprite_setEngine (s : State) (o : Option Sprite) (e : Engine) :
    emitSprite { s with engine := e } o = { emitSprite s o with engine := e } := by
  cases o with
  | none => rfl
  | some sp => rw [emitSprite_some, emitSprite_some, emit_eq, emit_eq, portWrites_eq, portWrites_eq]

theorem emitFold_setEngine (l : List (Option Sprite)) (s : State) (e : Engine) :
    l.foldl emitSprite { s with engine := e } = { l.foldl emitSprite s with engine := e } := by
  induction l generalizing s with
  | nil => rfl
  | cons o l ih => rw [List.foldl_cons, List.foldl_cons, emitSprite_setEngine, ih]

/-- The emission reads the sprites of the engine and nothing else of it. -/
theorem emitSprites_setEngine (s : State) (e : Engine) (he : e.sprites = s.engine.sprites) :
    emitSprites { s with engine := e } = { emitSprites s with engine := e } := by
  rw [emitSprites, he]
  exact emitFold_setEngine s.engine.sprites (portWrite s .slot s.cfg.attrBase) e

theorem emitSprites_setSeq (s : State) (q : Seq) : emitSprites (s.setSeq q) = (emitSprites s).setSeq q := by
  refine (emitSprites_setEngine s { s.engine with seq := q } rfl).trans ?_
  simp only [State.setSeq, emitSprites_engine]

theorem emitSprites_setLoop (s : State) (l : Loop) : emitSprites (s.setLoop l) = (emitSprites s).setLoop l := by
  refine (emitSprites_setEngine s { s.engine with loop := l } rfl).trans ?_
  simp only [State.setLoop, emitSprites_engine]

/-- A frame of FRAME's own loop on a machine that was idle: the tick, the emission, the reads, and UPDATE. -/
theorem frameDone_frameEnd_frame {s : State} (samples rest : List Nat) (hl : s.engine.loop = .none) :
    frameDone (frameEnd ((s.setLoop .frame).setSeq .update) samples rest) =
      ((emitSprites (tickAll s)).afterReads samples rest).setSeq .update := by
  have hu : (emitSprites (tickAll s)).engine.loop = .none := by simp [hl]
  rw [frameEnd, tickAll_setSeq, tickAll_setLoop, emitSprites_setSeq, emitSprites_setSeq, emitSprites_setLoop]
  generalize emitSprites (tickAll s) = u at hu ⊢
  exact setLoop_none (s := (u.afterReads samples rest).setSeq .update) hu

/-- Settles O38: one frame of FRAME's own loop. -/
theorem frameIsTickEmitWait : Obligations.FrameIsTickEmitWait := by
  intro s samples rest more hv hl hw hs hline hin
  have hrun := runSteps_frame (s := (s.takeInput.setLoop .frame).setSeq .update) hv nofun rfl hw hs hline
  have hbegin := runSteps_begin (u := (s.takeInput.setLoop .frame).setSeq .update) (samples.length + 1)
    hv hl hin rfl rfl hv nofun
  refine ⟨tickAll s.takeInput, emitSprites (tickAll s.takeInput), exec_tick_written hw,
    exec_emitAll_written ((tickAll_allWritten s.takeInput).trans hw), ?_⟩
  rw [core_run_eq, Nat.add_comm, ← frameDone_frameEnd_frame (s := s.takeInput) samples rest hl]
  exact hbegin.trans hrun

/-! ## A whole RUN (R94) -/

/-- Two states with the same parameters, sprites and phase, which is all that a tick reads. -/
structure SameSprites (s t : State) : Prop where
  cfg : t.cfg = s.cfg
  sprites : t.engine.sprites = s.engine.sprites
  phase : t.engine.phase = s.engine.phase

theorem SameSprites.tickAll {s t : State} (h : SameSprites s t) : SameSprites (tickAll s) (tickAll t) where
  cfg := by rw [tickAll_cfg, tickAll_cfg, h.cfg]
  sprites := by rw [tickAll_eq, tickAll_eq, State.setSprites_sprites, State.setSprites_sprites, h.cfg, h.sprites, h.phase]
  phase := by rw [tickAll_phase, tickAll_phase, h.phase]

theorem SameSprites.iterate {s t : State} (n : Nat) (h : SameSprites s t) :
    SameSprites (Machine.tickAll^[n] s) (Machine.tickAll^[n] t) := by
  induction n generalizing s t with
  | zero => exact h
  | succ n ih => exact ih h.tickAll

theorem SameSprites.trans {s t u : State} (h : SameSprites s t) (g : SameSprites t u) : SameSprites s u where
  cfg := g.cfg.trans h.cfg
  sprites := g.sprites.trans h.sprites
  phase := g.phase.trans h.phase

theorem slotSelects_append (T U : List Event) : slotSelects (T ++ U) = slotSelects T + slotSelects U := List.countP_append

theorem attrWrites_append (T U : List Event) : attrWrites (T ++ U) = attrWrites T + attrWrites U := List.countP_append

theorem slotSelects_attr (bytes : List Byte) : slotSelects (bytes.map (Event.w .attr)) = 0 := by simp [slotSelects]

theorem attrWrites_attr (bytes : List Byte) : attrWrites (bytes.map (Event.w .attr)) = bytes.length := by
  simp [attrWrites, List.countP_map, Function.comp_def]

theorem slotSelects_reads (ls : List Nat) : slotSelects (ls.map (Event.r .line)) = 0 := by simp [slotSelects]

theorem attrWrites_reads (ls : List Nat) : attrWrites (ls.map (Event.r .line)) = 0 := by simp [attrWrites]

/-- Four bytes a sprite, where all are written. -/
theorem emission_length (cfg : Params) (l : List (Option Sprite)) (hw : l.all Option.isSome = true) :
    ((l.filterMap id).flatMap (animBytes cfg)).length = 4 * l.length := by
  induction l with
  | nil => rfl
  | cons o l ih =>
    simp only [List.all_cons, Bool.and_eq_true] at hw
    obtain ⟨ho, hl⟩ := hw
    obtain ⟨sp, rfl⟩ := Option.isSome_iff_exists.1 ho
    have := ih hl
    simp at this ⊢
    omega

theorem emitSprites_counts {s : State} (hw : s.allWritten = true) :
    slotSelects (emitSprites s).trace = slotSelects s.trace + 1 ∧
    attrWrites (emitSprites s).trace = attrWrites s.trace + 4 * s.nSprites := by
  have hselect : ∀ es, slotSelects (.w .slot s.cfg.attrBase :: es) = slotSelects es + 1 :=
    fun es => List.countP_cons_of_pos rfl
  have hattr : ∀ es, attrWrites (.w .slot s.cfg.attrBase :: es) = attrWrites es := fun es => List.countP_cons_of_neg nofun
  rw [emitSprites_trace, slotSelects_append, attrWrites_append, hselect, hattr, slotSelects_attr, attrWrites_attr,
    emission_length s.cfg _ hw]
  exact ⟨by omega, rfl⟩

/-- What one frame of a loop has done at the end of its wait, whatever the loop then does. -/
structure FrameRan (s t : State) (rest : List Nat) : Prop where
  sprites : SameSprites (tickAll s) t
  inputs : t.env.inputs = s.env.inputs
  line : t.env.line = rest
  selects : slotSelects t.trace = slotSelects s.trace + 1
  writes : attrWrites t.trace = attrWrites s.trace + 4 * s.nSprites

theorem frameRan {s : State} (hw : s.allWritten = true) (samples rest : List Nat) :
    FrameRan s (frameDone (frameEnd s samples rest)) rest := by
  obtain ⟨hcfg, -, hsprites, hphase, htrace, henv⟩ := frameDone_frame (frameEnd s samples rest)
  obtain ⟨hselects, hwrites⟩ := emitSprites_counts (s := (tickAll s).setSeq .emit) ((tickAll_allWritten s).trans hw)
  rw [State.setSeq_trace, tickAll_trace] at hselects hwrites
  rw [State.nSprites_def, State.setSeq_sprites, tickAll_length] at hwrites
  have hengine := emitSprites_engine ((tickAll s).setSeq .emit)
  have henv' : (emitSprites ((tickAll s).setSeq .emit)).env = s.env := by simp
  have hreads : (frameEnd s samples rest).trace =
      (emitSprites ((tickAll s).setSeq .emit)).trace ++ samples.map (Event.r .line) := rfl
  refine ⟨⟨hcfg.trans (emitSprites_cfg _), hsprites.trans ?_, hphase.trans ?_⟩, ?_, congrArg Env.line henv, ?_, ?_⟩
  · change (emitSprites ((tickAll s).setSeq .emit)).engine.sprites = _
    rw [hengine, State.setSeq_sprites]
  · change (emitSprites ((tickAll s).setSeq .emit)).engine.phase = _
    rw [hengine, State.setSeq_phase]
  · rw [henv]
    change (emitSprites ((tickAll s).setSeq .emit)).env.inputs = _
    rw [henv']
  · rw [htrace, hreads, slotSelects_append, slotSelects_reads, Nat.add_zero, hselects]
  · rw [htrace, hreads, attrWrites_append, attrWrites_reads, Nat.add_zero, hwrites, State.nSprites_def]

theorem frameEnd_loop (s : State) (samples rest : List Nat) : (frameEnd s samples rest).engine.loop = s.engine.loop := by
  change (emitSprites ((tickAll s).setSeq .emit)).engine.loop = _
  simp

/-- What a RUN has done when it halts, after n frames. -/
structure RunRan (n : Nat) (s t : State) (rest : List Nat) : Prop where
  seq : t.engine.seq = .halt
  loop : t.engine.loop = .none
  sprites : SameSprites (tickAll^[n] s) t
  inputs : t.env.inputs = s.env.inputs
  line : t.env.line = rest
  selects : slotSelects t.trace = slotSelects s.trace + n
  writes : attrWrites t.trace = attrWrites s.trace + 4 * n * s.nSprites

/-- One more frame before a RUN that halts. -/
theorem RunRan.cons {n : Nat} {s u t : State} {rest rest' : List Nat} (hf : FrameRan s u rest')
    (hr : RunRan n u t rest) : RunRan (n + 1) s t rest where
  seq := hr.seq
  loop := hr.loop
  sprites := (hf.sprites.iterate n).trans hr.sprites
  inputs := hr.inputs.trans hf.inputs
  line := hr.line
  selects := by rw [hr.selects, hf.selects]; omega
  writes := by
    have hn : u.nSprites = s.nSprites := (congrArg List.length hf.sprites.sprites).trans (tickAll_length s)
    rw [hr.writes, hf.writes, hn]
    ring

/-- A RUN in progress comes to HALT after its frames, given samples that end each wait. -/
theorem runSteps_run (frames : List (List Nat)) (f rest : List Nat) (s : State) (hv : s.cfgValid = true)
    (hl : s.engine.loop = .run (.finite (frames.length + 1))) (hseq : s.engine.seq = .update) (hw : s.allWritten = true)
    (hs : ∀ g ∈ f :: frames, waitSamples s.cfg g) (hline : s.env.line = (f :: frames).flatten ++ rest) :
    ∃ k t, runSteps (k + 1) s = .next t ∧ RunRan (frames.length + 1) s t rest := by
  induction frames generalizing f s with
  | nil =>
    have hrun := runSteps_frame hv (by simp [hl]) hseq hw (hs f (by simp)) (rest := rest) (by simpa using hline)
    obtain ⟨hsprites, hinputs, hrest, hselects, hwrites⟩ := frameRan hw f rest
    obtain ⟨-, -, -, hlast, -⟩ := frameDone_loops (frameEnd s f rest)
    obtain ⟨hhalt, hnone⟩ := hlast ((frameEnd_loop s f rest).trans hl)
    exact ⟨_, _, hrun, hhalt, hnone, hsprites, hinputs, hrest, hselects, by simpa using hwrites⟩
  | cons g frames ih =>
    have hrun := runSteps_frame hv (by simp [hl]) hseq hw (hs f (by simp)) (rest := (g :: frames).flatten ++ rest)
      (by simpa using hline)
    have hran := frameRan hw f ((g :: frames).flatten ++ rest)
    obtain ⟨-, -, -, -, hmore⟩ := frameDone_loops (frameEnd s f ((g :: frames).flatten ++ rest))
    obtain ⟨hupdate, hleft⟩ := hmore _ (by simp) ((frameEnd_loop s f _).trans hl)
    generalize frameDone (frameEnd s f ((g :: frames).flatten ++ rest)) = u at hrun hran hupdate hleft
    have hcfg : u.cfg = s.cfg := hran.sprites.cfg.trans (tickAll_cfg s)
    have huw : u.allWritten = true := by
      rw [← hw, ← tickAll_allWritten s, State.allWritten_def, hran.sprites.sprites]
      rfl
    have huv : u.cfgValid = true := by
      rw [← hv, State.cfgValid_def, State.cfgValid_def, hcfg, hran.sprites.sprites, tickAll_length]
    obtain ⟨k, t, hrest, hrr⟩ := ih g u huv hleft hupdate huw (fun x hx => hcfg ▸ hs x (by simp [hx])) hran.line
    exact ⟨f.length + 2 + k, t, (runSteps_add (k + 1) hrun).trans hrest, hrr.cons hran⟩

/-- Settles O39: the loop that RUN begins, over its frames. -/
theorem runHaltsAfterItsFrames : Obligations.RunHaltsAfterItsFrames := by
  intro s frames rest more hv hl hw hpos hs hline hin
  match frames, hpos with
  | f :: frames, _ =>
    let u := (s.takeInput.setLoop (.run (.finite (frames.length + 1)))).setSeq .update
    obtain ⟨k, t, hrun, hran⟩ := runSteps_run frames f rest u hv rfl rfl hw hs hline
    have hsame : SameSprites s u := ⟨rfl, rfl, rfl⟩
    have hfinal := (hsame.iterate (frames.length + 1)).trans hran.sprites
    refine ⟨k + 1, t, ?_, hran.seq, hran.loop, hfinal.sprites, hfinal.phase, ?_, hran.line, ?_, hran.selects, hran.writes⟩
    · exact (core_run_eq _ _).trans ((runSteps_begin k hv hl hin rfl rfl (u := u) hv nofun).trans hrun)
    · rw [hran.inputs]
      exact congrArg List.tail hin
    · have hcfg : ∀ n, (tickAll^[n] s).cfg = s.cfg := by
        intro n
        induction n with
        | zero => rfl
        | succ n ih => rw [Function.iterate_succ_apply', tickAll_cfg, ih]
      rw [hfinal.cfg, hcfg]

end Sys2Proof.Machine
end

section
/-! The register operations and the pattern uploads (R100 to R105), external port writes (R35, R41, R49 to R51), and the sides
that each family of instructions keeps to (R13, R23, R33, R81). -/

namespace Sys2Proof.Machine

/-! ## The data register (R49, R51) -/

theorem setWidth6_eq (v : Byte) : v.setWidth 6 = BitVec.ofNat 6 (v.toNat % 64) :=
  BitVec.eq_of_toNat_eq (by simp)

/-- A data write does what `dataWriteLeaves` says, register by register. -/
theorem reactRegData_leaves (s : State) (v : Byte) : dataWriteLeaves s v (reactRegData s.cfg v s.port) := by
  refine ⟨reactRegData_other v, fun hd => ⟨fun h => ?slot, fun h => reactRegData_palIndex v hd h, fun h hlow => ?low,
    fun h hhigh => ?high⟩⟩
  case slot => rw [reactRegData_patSlot v hd h, reactPatSlot, setWidth6_eq]; rfl
  case low => rw [reactRegData_palData v hd h, reactPalData, hlow]; rfl
  case high => rw [reactRegData_palData v hd h, reactPalData, hhigh]; rfl

/-- With the pattern slot selected a data write restarts the pattern cursor, whatever other ids are equal to that one. -/
theorem reactRegData_selectsPattern {cfg : Params} {c : Coproc} (v : Byte) (h : c.regSel = cfg.regPatSlot) :
    (reactRegData cfg v c).patSlot = v.setWidth 6 ∧ (reactRegData cfg v c).patPos = 0#8 := by
  dsimp only [reactRegData]
  rw [if_pos h]
  split <;> split <;> exact ⟨rfl, rfl⟩

theorem reactRegData_regChosen (cfg : Params) (v : Byte) (c : Coproc) :
    (reactRegData cfg v c).regChosen = c.regChosen := by
  dsimp only [reactRegData]
  split <;> split <;> split <;> rfl

/-- Settles O41: the selector's row, and the event and reaction of `P_REGSEL`. -/
theorem regSelectReplacesSelection : Obligations.RegSelectReplacesSelection := ⟨fun _ => rfl, fun _ _ => rfl⟩

/-- Settles O42: the two branches of REG_WRITE. -/
theorem regWriteReachesSelectedRegister : Obligations.RegWriteReachesSelectedRegister := by
  intro v s
  refine ⟨fun h => ?_, fun h => ⟨reactRegData s.cfg v s.port, ?_, reactRegData_leaves s v⟩⟩
  · simp [exec, execRegWrite, h]
  · simp only [exec, execRegWrite, h, if_true]
    rfl

theorem dropData_frame (e : Env) : e.dropData.inputs = e.inputs ∧ e.dropData.line = e.line ∧ e.dropData.draws = e.draws ∧
    e.dropData.loader = e.loader := by
  unfold Env.dropData; split <;> exact ⟨rfl, rfl, rfl, rfl⟩

/-- Settles O43: the two branches of REG_READ, and where its byte comes from. -/
theorem regReadReturnsFreeByte : Obligations.RegReadReturnsFreeByte := by
  intro s
  refine ⟨fun h => ?refused, fun h => ?read⟩
  case refused => simp [exec, execRegRead, h]
  case read =>
    obtain ⟨hinputs, hline, hdraws, hloader⟩ := dropData_frame s.env
    refine ⟨s.dataValue, s.readData, by simp [exec, execRegRead, h], rfl, rfl, fun w ws hw => ?_, hinputs, hline, hdraws,
      hloader, rfl, rfl, rfl⟩
    simp [State.dataValue, Env.dropData, hw]

/-! ## SELECT_PATTERN_SLOT (R103) -/

/-- What selecting a pattern slot leaves behind the ports. -/
theorem selectPattern_port (s : State) (slot : Byte) :
    (selectPattern s slot).port.patSlot.toNat = slot.toNat % 64 ∧ (selectPattern s slot).port.patPos = 0#8 ∧
      (selectPattern s slot).port.regSel = s.cfg.regPatSlot ∧ (selectPattern s slot).port.regChosen = true ∧
      (selectPattern s slot).port.pat = s.port.pat ∧ (selectPattern s slot).port.attr = s.port.attr ∧
      (selectPattern s slot).port.attrSlot = s.port.attrSlot ∧ (selectPattern s slot).port.attrByte = s.port.attrByte := by
  have hport : (selectPattern s slot).port = reactRegData s.cfg (maskSlot slot) (reactRegSel s.cfg.regPatSlot s.port) := rfl
  obtain ⟨hslot, hpos⟩ :=
    reactRegData_selectsPattern (cfg := s.cfg) (c := reactRegSel s.cfg.regPatSlot s.port) (maskSlot slot) rfl
  obtain ⟨hattr, hattrSlot, hattrByte, hsel, hpat⟩ :=
    reactRegData_attr s.cfg (maskSlot slot) (reactRegSel s.cfg.regPatSlot s.port)
  rw [hport]
  refine ⟨?_, hpos, hsel, reactRegData_regChosen _ _ _, hpat, hattr, hattrSlot, hattrByte⟩
  rw [hslot, BitVec.toNat_setWidth, maskSlot_toNat]
  omega

/-- Where the ids differ the palette side is untouched. -/
theorem selectPattern_palette {s : State} (slot : Byte) (hd : idsDiffer s.cfg) :
    (selectPattern s slot).port.palIndex = s.port.palIndex ∧ (selectPattern s slot).port.palHalf = s.port.palHalf ∧
      (selectPattern s slot).port.pal = s.port.pal := by
  have hport : (selectPattern s slot).port = reactRegData s.cfg (maskSlot slot) (reactRegSel s.cfg.regPatSlot s.port) := rfl
  rw [hport, reactRegData_patSlot (maskSlot slot) hd rfl]
  exact ⟨rfl, rfl, rfl⟩

theorem selectPattern_trace (s : State) (slot : Byte) :
    (selectPattern s slot).trace = s.trace ++ [.w .regSel s.cfg.regPatSlot, .w .regData (maskSlot slot)] := by
  simp [selectPattern, regAccess]

/-- Settles O44. -/
theorem selectPatternSlotMasks : Obligations.SelectPatternSlotMasks := by
  refine ⟨fun _ => rfl, fun slot s => ?_⟩
  obtain ⟨hslot, hpos, hsel, hchosen, hpat, hattr, hattrSlot, hattrByte⟩ := selectPattern_port s slot
  exact ⟨maskSlot slot, selectPattern s slot, maskSlot_toNat slot, rfl, rfl, selectPattern_trace s slot, hslot, hpos, hsel,
    hchosen, hpat, hattr, hattrSlot, hattrByte, rfl, rfl, rfl, selectPattern_palette slot⟩

/-! ## UPLOAD_PATTERN (R104) -/

/-- Settles O45: a run of 256 pattern bytes from the cursor. -/
theorem uploadPatternFillsSlot : Obligations.UploadPatternFillsSlot := by
  intro block s
  refine ⟨fun h => if_neg h, fun h => ?_⟩
  have hport : (portWrites s .pattern block).port = block.foldl (fun c v => reactPattern v c) s.port :=
    portWrites_port s .pattern block
  obtain ⟨hin, hout, hcursor, hframe⟩ := patternRun block s.port (by omega)
  rw [← hport, h] at hin hout hcursor
  rw [← hport] at hframe
  have hslotLt := s.port.patSlot.isLt
  have hposLt := s.port.patPos.isLt
  have hslotLt' := (portWrites s .pattern block).port.patSlot.isLt
  have hposLt' := (portWrites s .pattern block).port.patPos.isLt
  have hslotSucc := slot_succ s.port.patSlot
  simp only [patCursor, patAddr] at hcursor
  have hslot : (portWrites s .pattern block).port.patSlot = s.port.patSlot + 1 :=
    BitVec.eq_of_toNat_eq (by omega)
  have hpos : (portWrites s .pattern block).port.patPos = s.port.patPos := BitVec.eq_of_toNat_eq (by omega)
  refine ⟨portWrites s .pattern block, if_pos h, portWrites_trace s .pattern block, fun n hn => ?_, fun a ha => ?_, hslot,
    hpos, ?_, portWrites_cfg s _ _, portWrites_engine s _ _, portWrites_env s _ _⟩
  · exact Memory.some_read .pat (hin n hn) (by simp [h, hn])
  · exact Memory.read_congr .pat (hout a ha)
  · rw [hpos] at hframe; exact hframe

/-! ## UPLOAD_PATTERN_SERIES (R105, R108) -/

/-- The state with several loader events behind it. -/
def State.loaderEvents (s : State) (es : List LoaderEvent) : State :=
  { s with env := { s.env with loader := s.env.loader ++ es } }

section
variable (s : State) (es : List LoaderEvent)

@[simp] theorem State.loaderEvents_cfg : (s.loaderEvents es).cfg = s.cfg := rfl
@[simp] theorem State.loaderEvents_engine : (s.loaderEvents es).engine = s.engine := rfl
@[simp] theorem State.loaderEvents_port : (s.loaderEvents es).port = s.port := rfl
@[simp] theorem State.loaderEvents_trace : (s.loaderEvents es).trace = s.trace := rfl
@[simp] theorem State.loaderEvents_env :
    (s.loaderEvents es).env = { s.env with loader := s.env.loader ++ es } := rfl

theorem State.loaderEvent_eq (e : LoaderEvent) : s.loaderEvent e = s.loaderEvents [e] := rfl

theorem State.loaderEvents_append (es' : List LoaderEvent) :
    (s.loaderEvents es).loaderEvents es' = s.loaderEvents (es ++ es') := by simp [State.loaderEvents]

/-- Port writes and loader events do not see each other. -/
theorem portWrites_loaderEvents (p : Port) (vs : List Byte) :
    portWrites (s.loaderEvents es) p vs = (portWrites s p vs).loaderEvents es := by
  rw [portWrites_eq, portWrites_eq]; rfl

end

/-- What a pattern series asks of the loader: a read for each block, and one that fails unless the count is used up. -/
def readEvents : Nat → List (Option Block) → List LoaderEvent
  | 0, _ => []
  | _ + 1, [] => [.read false]
  | _ + 1, none :: _ => [.read false]
  | n + 1, some _ :: rest => .read true :: readEvents n rest

theorem readEvents_read (n : Nat) (reads : List (Option Block)) : ∀ e ∈ readEvents n reads, ∃ ok, e = .read ok := by
  induction n generalizing reads with
  | zero => exact nofun
  | succ n ih =>
    match reads with
    | [] => simp [readEvents]
    | none :: _ => simp [readEvents]
    | some b :: rest => simpa [readEvents] using ih rest

/-- The transfers of a series are one run of the bytes read before the first failure. -/
theorem uploadBlocks_eq (n : Nat) (reads : List (Option Block)) (s : State) : uploadBlocks n reads s =
    (portWrites s .pattern ((goodReads n reads).flatMap Vector.toList)).loaderEvents (readEvents n reads) := by
  induction n generalizing reads s with
  | zero => simp [uploadBlocks, goodReads, readEvents, State.loaderEvents]
  | succ n ih =>
    match reads with
    | [] => rfl
    | none :: _ => rfl
    | some b :: rest =>
      rw [uploadBlocks, ih, State.loaderEvent_eq, portWrites_loaderEvents, portWrites_loaderEvents,
        State.loaderEvents_append, goodReads, List.flatMap_cons, portWrites_append]
      rfl

theorem goodReads_length (n : Nat) (reads : List (Option Block)) : (goodReads n reads).length ≤ n := by
  induction n generalizing reads with
  | zero => exact Nat.le_refl 0
  | succ n ih =>
    match reads with
    | [] => exact Nat.zero_le _
    | none :: _ => exact Nat.zero_le _
    | some b :: rest => exact Nat.succ_le_succ (ih rest)

theorem blockBytes_length (blocks : List Block) : (blocks.flatMap Vector.toList).length = 256 * blocks.length := by
  induction blocks with
  | nil => rfl
  | cons b blocks ih => rw [List.flatMap_cons, List.length_append, ih, Vector.length_toList, List.length_cons]; omega

/-- Byte n of block k stands at 256 k + n. -/
theorem blockBytes_get {blocks : List Block} {k n : Nat} {b : Block} (h : blocks[k]? = some b) (hn : n < 256) :
    (blocks.flatMap Vector.toList)[256 * k + n]? = b.toList[n]? := by
  induction blocks generalizing k with
  | nil => cases h
  | cons x blocks ih =>
    rw [List.flatMap_cons]
    cases k with
    | zero =>
      obtain rfl : x = b := by simpa using h
      rw [List.getElem?_append_left (by rw [Vector.length_toList]; omega), Nat.mul_zero, Nat.zero_add]
    | succ k =>
      rw [show 256 * (k + 1) + n = 256 * k + n + x.toList.length by rw [Vector.length_toList]; omega,
        List.getElem?_append_right (Nat.le_add_left _ _), Nat.add_sub_cancel, ih h]

/-- Blocks written from byte 0 of a slot on, as many as there are slots left: block k fills slot k after it, nothing else is
stored, and the cursor ends at byte 0 of the slot after the last. -/
theorem patternBlocks (blocks : List Block) (c : Coproc) (start : Nat) (hslot : c.patSlot.toNat = start)
    (hpos : c.patPos = 0#8) (hfit : start + blocks.length ≤ 64) :
    (∀ k b n, blocks[k]? = some b → n < 256 →
      ((blocks.flatMap Vector.toList).foldl (fun c v => reactPattern v c) c).pat.written (256 * (start + k) + n) =
        b.toList[n]?) ∧
    (∀ a, (a < 256 * start ∨ 256 * (start + blocks.length) ≤ a) →
      ((blocks.flatMap Vector.toList).foldl (fun c v => reactPattern v c) c).pat.written a = c.pat.written a) ∧
    ((blocks.flatMap Vector.toList).foldl (fun c v => reactPattern v c) c).patSlot.toNat = (start + blocks.length) % 64 ∧
    ((blocks.flatMap Vector.toList).foldl (fun c v => reactPattern v c) c).patPos = 0#8 := by
  have hlen := blockBytes_length blocks
  obtain ⟨hin, hout, hcursor, -⟩ := patternRun (blocks.flatMap Vector.toList) c (by omega)
  have hstart : patCursor c = 256 * start := by rw [patCursor, patAddr, hslot, hpos]; rfl
  rw [hstart] at hin hout hcursor
  rw [hlen] at hin hout hcursor
  generalize (blocks.flatMap Vector.toList).foldl (fun c v => reactPattern v c) c = d at hin hout hcursor ⊢
  have hslotLt := d.patSlot.isLt
  have hposLt := d.patPos.isLt
  simp only [patCursor, patAddr] at hcursor
  refine ⟨fun k b n hb hn => ?_, fun a ha => hout a (fun n hn => by omega), by omega, BitVec.eq_of_toNat_eq ?_⟩
  · have hk := (List.getElem?_eq_some_iff.1 hb).1
    rw [← blockBytes_get hb hn, ← hin (256 * k + n) (by omega)]
    congr 1
    omega
  · rw [BitVec.toNat_ofNat]; omega

theorem maskSlot_ofNat {start : Nat} (h : start < 64) : maskSlot (BitVec.ofNat 8 start) = BitVec.ofNat 8 start := by
  apply BitVec.eq_of_toNat_eq
  rw [maskSlot_toNat, BitVec.toNat_ofNat]
  omega

/-- Pattern bytes touch the pattern store and its cursor only. -/
theorem patternBytes_frame (s : State) (vs : List Byte) : (portWrites s .pattern vs).port = { s.port with
    pat := (portWrites s .pattern vs).port.pat
    patSlot := (portWrites s .pattern vs).port.patSlot
    patPos := (portWrites s .pattern vs).port.patPos } := by
  induction vs generalizing s with
  | nil => rfl
  | cons v vs ih => rw [portWrites_cons, ih]; rfl

/-- The port traffic of a series: its start slot selected, then the bytes of the blocks it has read. -/
def sendBlocks (s : State) (start : Nat) (blocks : List Block) : State :=
  portWrites (selectPattern s (BitVec.ofNat 8 start)) .pattern (blocks.flatMap Vector.toList)

section
variable (s : State) (start : Nat) (blocks : List Block)

@[simp] theorem sendBlocks_cfg : (sendBlocks s start blocks).cfg = s.cfg := portWrites_cfg _ _ _
@[simp] theorem sendBlocks_engine : (sendBlocks s start blocks).engine = s.engine := portWrites_engine _ _ _
@[simp] theorem sendBlocks_env : (sendBlocks s start blocks).env = s.env := portWrites_env _ _ _

theorem sendBlocks_trace (h : start < 64) : (sendBlocks s start blocks).trace =
    s.trace ++ [.w .regSel s.cfg.regPatSlot, .w .regData (BitVec.ofNat 8 start)] ++
      (blocks.flatMap Vector.toList).map (Event.w .pattern) := by
  rw [sendBlocks, portWrites_trace, selectPattern_trace, maskSlot_ofNat h]

/-- Where the blocks land, what else of the pattern memory is unchanged, and where the cursor ends. -/
theorem sendBlocks_pattern (hstart : start < 64) (hfit : start + blocks.length ≤ 64) :
    (∀ k b n, blocks[k]? = some b → n < 256 →
      (sendBlocks s start blocks).port.pat.written (256 * (start + k) + n) = b.toList[n]?) ∧
    (∀ a, (a < 256 * start ∨ 256 * (start + blocks.length) ≤ a) →
      (sendBlocks s start blocks).port.pat.written a = s.port.pat.written a) ∧
    (sendBlocks s start blocks).port.patSlot.toNat = (start + blocks.length) % 64 ∧
    (sendBlocks s start blocks).port.patPos = 0#8 := by
  obtain ⟨hslot, hpos, -, -, hpat, -⟩ := selectPattern_port s (BitVec.ofNat 8 start)
  have hselected : (selectPattern s (BitVec.ofNat 8 start)).port.patSlot.toNat = start := by
    rw [hslot, BitVec.toNat_ofNat]; omega
  have hport : (sendBlocks s start blocks).port = (blocks.flatMap Vector.toList).foldl (fun c v => reactPattern v c)
      (selectPattern s (BitVec.ofNat 8 start)).port := portWrites_port _ .pattern _
  rw [hport, ← hpat]
  exact patternBlocks blocks _ start hselected hpos hfit

/-- What a series leaves alone behind the ports, and the register it leaves selected. -/
theorem sendBlocks_frame :
    (sendBlocks s start blocks).port.attr = s.port.attr ∧ (sendBlocks s start blocks).port.attrSlot = s.port.attrSlot ∧
    (sendBlocks s start blocks).port.attrByte = s.port.attrByte ∧
    (sendBlocks s start blocks).port.regSel = s.cfg.regPatSlot ∧ (sendBlocks s start blocks).port.regChosen = true := by
  obtain ⟨-, -, hsel, hchosen, -, hattr, hattrSlot, hattrByte⟩ := selectPattern_port s (BitVec.ofNat 8 start)
  rw [sendBlocks, patternBytes_frame]
  exact ⟨hattr, hattrSlot, hattrByte, hsel, hchosen⟩

theorem sendBlocks_palette (hd : idsDiffer s.cfg) : (sendBlocks s start blocks).port.pal = s.port.pal ∧
    (sendBlocks s start blocks).port.palIndex = s.port.palIndex ∧
    (sendBlocks s start blocks).port.palHalf = s.port.palHalf := by
  obtain ⟨hindex, hhalf, hpal⟩ := selectPattern_palette (BitVec.ofNat 8 start) hd
  rw [sendBlocks, patternBytes_frame]
  exact ⟨hpal, hindex, hhalf⟩

end

theorem exec_series_notOpen {src : Source} (start count : Nat) (s : State) (ho : src.opens = false) :
    exec (.uploadPatternSeries src start count) s = .next (s.loaderEvents [.openFailed]) := by
  simp only [exec, execUploadPatternSeries, ho, Bool.not_false, if_true]; rfl

theorem exec_series_empty {src : Source} {start count : Nat} (s : State) (ho : src.opens = true)
    (hc : min count (64 - start) = 0) :
    exec (.uploadPatternSeries src start count) s = .next (s.loaderEvents [.opened, .closed]) := by
  have hclamp : clampCount start count = 0 := hc
  simp [exec, execUploadPatternSeries, ho, hclamp, State.loaderEvent_eq, State.loaderEvents_append]

/-- A series whose count is not clamped to 0, as its port traffic and the loader's events. -/
theorem exec_series {src : Source} {start count : Nat} (s : State) (ho : src.opens = true)
    (hc : 0 < min count (64 - start)) : exec (.uploadPatternSeries src start count) s = .next
      ((sendBlocks s start (goodReads (min count (64 - start)) src.reads)).loaderEvents
        ([.opened] ++ readEvents (min count (64 - start)) src.reads ++ [.closed])) := by
  have hclamp : clampCount start count = min count (64 - start) := rfl
  have hselect : selectPattern (s.loaderEvents [.opened]) (BitVec.ofNat 8 start) =
      (selectPattern s (BitVec.ofNat 8 start)).loaderEvents [.opened] := rfl
  simp only [exec, execUploadPatternSeries, ho, hclamp, Nat.pos_iff_ne_zero.1 hc, Bool.not_true, Bool.false_eq_true,
    if_false, State.loaderEvent_eq, uploadBlocks_eq, hselect, portWrites_loaderEvents, State.loaderEvents_append, sendBlocks]

/-- Settles O46: the three ways a series goes, the last as a run of blocks from the selected slot. -/
theorem patternSeriesClampsAndAborts : Obligations.PatternSeriesClampsAndAborts := by
  intro src start count s
  cases ho : src.opens with
  | false =>
    exact ⟨_, exec_series_notOpen start count s ho, rfl, rfl, rfl, fun _ => ⟨rfl, rfl, rfl⟩, nofun, nofun⟩
  | true =>
    rcases Nat.eq_zero_or_pos (min count (64 - start)) with hc | hc
    · exact ⟨_, exec_series_empty s ho hc, rfl, rfl, rfl, nofun, fun _ _ => ⟨rfl, rfl, rfl⟩,
        fun _ hpos => absurd hc (Nat.pos_iff_ne_zero.1 hpos)⟩
    · refine ⟨_, exec_series s ho hc, by simp, by simp, by simp, nofun,
        fun _ hzero => absurd hzero (Nat.pos_iff_ne_zero.1 hc), ?_⟩
      rintro - - blocks rfl
      have hlen := goodReads_length (min count (64 - start)) src.reads
      generalize goodReads (min count (64 - start)) src.reads = blocks at hlen ⊢
      obtain ⟨hin, hout, hslot, hpos⟩ := sendBlocks_pattern s start blocks (by omega) (by omega)
      obtain ⟨hattr, hattrSlot, hattrByte, hsel, hchosen⟩ := sendBlocks_frame s start blocks
      refine ⟨sendBlocks_trace s start blocks (by omega),
        fun k b n hb hn => Memory.some_read .pat (hin k b n hb hn) (by simp [hn]),
        fun a ha => Memory.read_congr .pat (hout a ha), hslot, hpos, hattr, hattrSlot, hattrByte,
        ⟨readEvents (min count (64 - start)) src.reads, by simp, readEvents_read _ _⟩, hsel, hchosen,
        sendBlocks_palette s start blocks⟩

/-! ## External port writes (R35, R36, R41, R49 to R51) -/

/-- A step of an idle machine takes an external write presented first. -/
theorem step_external {s : State} {p : Port} {v : Byte} {rest : List Input} (hv : s.cfgValid = true)
    (hl : s.engine.loop = .none) (hi : s.env.inputs = .portWrite p v :: rest) :
    step s = externalWrite { s with env := { s.env with inputs := rest } } p v := by
  rw [← takeInput_of_inputs hi]
  simp [step, hv, hl, fetchStep, fetch, hi]

/-- The pattern port's reaction to one byte, its cursor by the position within the slot. -/
theorem reactPattern_cursor (v : Byte) (c : Coproc) :
    (c.patPos.toNat < 255 → (reactPattern v c).patSlot = c.patSlot ∧
      (reactPattern v c).patPos.toNat = c.patPos.toNat + 1) ∧
    (c.patPos.toNat = 255 → (reactPattern v c).patSlot.toNat = (c.patSlot.toNat + 1) % 64 ∧
      (reactPattern v c).patPos = 0#8) := by
  have hsucc := byte_succ c.patPos
  refine ⟨fun h => ?_, fun h => ?_⟩
  · have hne : c.patPos ≠ 0xFF#8 := fun e => by rw [e] at h; exact absurd h (by decide)
    rw [reactPattern_patSlot, if_neg hne, reactPattern_patPos]
    exact ⟨rfl, by omega⟩
  · have heq : c.patPos = 0xFF#8 := BitVec.eq_of_toNat_eq h
    rw [reactPattern_patSlot, if_pos heq, slot_succ, reactPattern_patPos, heq]
    exact ⟨rfl, rfl⟩

/-- Settles O59: each port's own event and reaction. -/
theorem externalWriteReactsAsWritten : Obligations.ExternalWriteReactsAsWritten := by
  intro s v rest hv hl
  refine ⟨fun hi => step_external hv hl hi, fun hi => ?attr, fun hi => step_external hv hl hi,
    fun hi => ⟨_, step_external hv hl hi, reactRegData_leaves s v⟩, fun hi => ?pattern, fun hi => step_external hv hl hi⟩
  case attr =>
    exact ⟨_, step_external hv hl hi, rfl, rfl, rfl, rfl, rfl, reactAttr_read_same s.cfg v s.port,
      fun _ h => reactAttr_read_other s.cfg v s.port h, fun h => nextCursor_within _ _ v h,
      fun h he => nextCursor_fifth _ _ h he, fun h => nextCursor_end _ _ h⟩
  case pattern =>
    obtain ⟨hwithin, hlast⟩ := reactPattern_cursor v s.port
    exact ⟨_, step_external hv hl hi, rfl, rfl, rfl, rfl, rfl, Memory.read_write_same _ _ _ _,
      fun _ h => Memory.read_write_other _ _ _ h, hwithin, hlast⟩

end Sys2Proof.Machine
end

section
/-! The palette uploads (R106 to R109, R116): one upload, the two halves of a palette load, and that loading twice is loading
once. -/

namespace Sys2Proof.Machine

/-! ## UPLOAD_PALETTE (R106) -/

/-- Settles O47: the checks in order, else one palette upload of the clamped entries. -/
theorem uploadPaletteClampsAndWrites : Obligations.UploadPaletteClampsAndWrites := by
  intro idx len s
  have hclamp : clampLength idx len = min len (256 - idx) := rfl
  refine ⟨rfl, fun bank => ⟨fun h0 => ?none, fun hshort => ?short, fun hpos hlen => ?send⟩⟩
  case none => simp only [exec, execUploadPalette, hclamp, h0, if_true]
  case short =>
    have hne : min len (256 - idx) ≠ 0 := by omega
    simp only [exec, execUploadPalette, hclamp, if_neg hne, if_pos hshort]
  case send =>
    have hne : min len (256 - idx) ≠ 0 := by omega
    have htake : (bank.take (min len (256 - idx))).length = min len (256 - idx) := List.length_take_of_le hlen
    have hentry : entryBytes = fun e => [BitVec.ofNat 8 e.toNat, BitVec.ofNat 8 (e.toNat / 256)] := funext entryBytes_eq
    obtain ⟨hcfg, hengine, henv⟩ := sendPalette_frame s idx (bank.take (min len (256 - idx)))
    refine ⟨sendPalette s idx (bank.take (min len (256 - idx))), ?_, ?_, hcfg, hengine, henv, fun hd => ?_⟩
    · simp only [exec, execUploadPalette, hclamp, if_neg hne, if_neg (Nat.not_lt.2 hlen)]
    · rw [sendPalette_trace, hentry]
    · obtain ⟨hin, hout, hport, -⟩ := sendPalette_port s hd idx (bank.take (min len (256 - idx))) (by omega) (by omega)
      rw [htake] at hin hout hport
      refine ⟨fun k e hk he => ?_, fun a ha => Memory.read_congr .pal (hout a ha), hport⟩
      obtain ⟨hlow, hhigh⟩ := flatBytes_get (es := bank.take (min len (256 - idx))) (k := k) (e := e)
        (by rw [List.getElem?_take_of_lt hk, he])
      rw [Nat.mul_add, Nat.add_assoc (2 * idx)]
      exact ⟨Memory.read_of_written .pal ((hin _ (by omega)).trans hlow),
        Memory.read_of_written .pal ((hin _ (by omega)).trans hhigh)⟩

/-! ## One half of a palette load (R107) -/

/-- One half: 128 entries from a 256-byte chunk, sent from entry i on. -/
def sendHalf (s : State) (i : Nat) (c : Block) : State := sendPalette s i (entriesOf c.toList)

/-- Palette traffic and loader events do not see each other. -/
theorem sendHalf_loaderEvents (s : State) (es : List LoaderEvent) (i : Nat) (c : Block) :
    sendHalf (s.loaderEvents es) i c = (sendHalf s i c).loaderEvents es := by
  simp only [sendHalf, sendPalette]
  exact portWrites_loaderEvents
    (portWrite (regAccess s s.cfg.regPalIndex (BitVec.ofNat 8 i)) .regSel s.cfg.regPalData) es .regData _

/-- The events of one half: the index, the data register, then the chunk's bytes in file order. -/
def halfEvents (cfg : Params) (i : Nat) (c : Block) : List Event :=
  [.w .regSel cfg.regPalIndex, .w .regData (BitVec.ofNat 8 i), .w .regSel cfg.regPalData] ++
    c.toList.map (Event.w .regData)

@[simp] theorem halfEvents_length (cfg : Params) (i : Nat) (c : Block) : (halfEvents cfg i c).length = 259 := by
  simp [halfEvents]

theorem sendHalf_trace (s : State) (i : Nat) (c : Block) :
    (sendHalf s i c).trace = s.trace ++ halfEvents s.cfg i c := by
  rw [sendHalf, sendPalette_trace, (entriesOf_block c).1, halfEvents, List.append_assoc]

@[simp] theorem sendHalf_cfg (s : State) (i : Nat) (c : Block) : (sendHalf s i c).cfg = s.cfg :=
  (sendPalette_frame s i _).1

@[simp] theorem sendHalf_engine (s : State) (i : Nat) (c : Block) : (sendHalf s i c).engine = s.engine :=
  (sendPalette_frame s i _).2.1

@[simp] theorem sendHalf_env (s : State) (i : Nat) (c : Block) : (sendHalf s i c).env = s.env :=
  (sendPalette_frame s i _).2.2

/-- Where the chunk's bytes land, and what else is unchanged behind the ports. -/
theorem sendHalf_port (s : State) (hd : idsDiffer s.cfg) {i : Nat} (hi : i + 128 ≤ 256) (c : Block) :
    (∀ n, n < 256 → (sendHalf s i c).port.pal.written (2 * i + n) = c.toList[n]?) ∧
    (∀ a, (a < 2 * i ∨ 2 * (i + 128) ≤ a) → (sendHalf s i c).port.pal.written a = s.port.pal.written a) ∧
    (sendHalf s i c).port = { s.port with
      pal := (sendHalf s i c).port.pal
      palIndex := BitVec.ofNat 8 (i + 128)
      palHalf := false
      regSel := s.cfg.regPalData, regChosen := true } ∧
    (s.port.pal.wf → (sendHalf s i c).port.pal.wf) := by
  obtain ⟨hbytes, hlen⟩ := entriesOf_block c
  obtain ⟨hin, hout, hport, hwf⟩ := sendPalette_port s hd i (entriesOf c.toList) (by omega) (by omega)
  rw [hlen] at hin hout hport
  rw [hbytes] at hin
  exact ⟨hin, hout, hport, hwf⟩

/-- What a palette load leaves alone in any case. -/
structure PaletteOnly (s t : State) : Prop where
  cfg : t.cfg = s.cfg
  engine : t.engine = s.engine
  env : t.env = { s.env with loader := t.env.loader }
  attr : t.port.attr = s.port.attr
  attrSlot : t.port.attrSlot = s.port.attrSlot
  attrByte : t.port.attrByte = s.port.attrByte
  pat : t.port.pat = s.port.pat
  pattern : idsDiffer s.cfg → t.port.patSlot = s.port.patSlot ∧ t.port.patPos = s.port.patPos

theorem PaletteOnly.loaderEvents {s t : State} (h : PaletteOnly s t) (es : List LoaderEvent) :
    PaletteOnly s (t.loaderEvents es) := { h with env := by rw [State.loaderEvents_env, h.env] }

theorem PaletteOnly.refl (s : State) : PaletteOnly s s := ⟨rfl, rfl, rfl, rfl, rfl, rfl, rfl, fun _ => ⟨rfl, rfl⟩⟩

theorem PaletteOnly.trans {s t u : State} (h : PaletteOnly s t) (g : PaletteOnly t u) : PaletteOnly s u where
  cfg := g.cfg.trans h.cfg
  engine := g.engine.trans h.engine
  env := by rw [g.env, h.env]
  attr := g.attr.trans h.attr
  attrSlot := g.attrSlot.trans h.attrSlot
  attrByte := g.attrByte.trans h.attrByte
  pat := g.pat.trans h.pat
  pattern hd := by
    obtain ⟨hslot, hpos⟩ := h.pattern hd
    obtain ⟨gslot, gpos⟩ := g.pattern (h.cfg.symm ▸ hd)
    exact ⟨gslot.trans hslot, gpos.trans hpos⟩

theorem regDataRun_pat (cfg : Params) (vs : List Byte) (c : Coproc) :
    (vs.foldl (fun c v => reactRegData cfg v c) c).pat = c.pat := by
  induction vs generalizing c with
  | nil => rfl
  | cons v vs ih => rw [List.foldl_cons, ih, (reactRegData_attr cfg v c).2.2.2.2]

theorem sendHalf_paletteOnly (s : State) {i : Nat} (hi : i + 128 ≤ 256) (c : Block) : PaletteOnly s (sendHalf s i c) := by
  obtain ⟨-, -, -, hattr, hattrSlot, hattrByte⟩ := (SideTraffic.sendPalette s i (entriesOf c.toList)).frame
  refine ⟨sendHalf_cfg s i c, sendHalf_engine s i c, by rw [sendHalf_env], hattr, hattrSlot, hattrByte, ?_, fun hd => ?_⟩
  · let u := portWrite (regAccess s s.cfg.regPalIndex (BitVec.ofNat 8 i)) .regSel s.cfg.regPalData
    have hport : (sendHalf s i c).port =
        ((entriesOf c.toList).flatMap entryBytes).foldl (fun c v => reactRegData u.cfg v c) u.port :=
      portWrites_port u .regData _
    rw [hport, regDataRun_pat]
    exact (reactRegData_attr s.cfg (BitVec.ofNat 8 i) (reactRegSel s.cfg.regPalIndex s.port)).2.2.2.2
  · obtain ⟨-, -, hport, -⟩ := sendHalf_port s hd hi c
    rw [hport]
    exact ⟨rfl, rfl⟩

/-! ## The whole load (R107, R108) -/

section
variable (s : State) (es : List LoaderEvent)

theorem loadHalves_nil (reads : List (Option Block)) :
    loadHalves [] reads (s.loaderEvents es) = s.loaderEvents (es ++ [.closed]) := by
  rw [loadHalves, State.loaderEvent_eq, State.loaderEvents_append]

/-- A read that fails, or that has nothing left to deliver, closes the source. -/
theorem loadHalves_failed (i : Nat) (is : List Nat) {reads : List (Option Block)} (h : reads.head?.join = none) :
    loadHalves (i :: is) reads (s.loaderEvents es) = s.loaderEvents (es ++ [.read false, .closed]) := by
  match reads, h with
  | [], _ => simp [loadHalves, State.loaderEvent_eq, State.loaderEvents_append]
  | none :: _, _ => simp [loadHalves, State.loaderEvent_eq, State.loaderEvents_append]

theorem loadHalves_chunk (i : Nat) (is : List Nat) (c : Block) (rest : List (Option Block)) :
    loadHalves (i :: is) (some c :: rest) (s.loaderEvents es) =
      loadHalves is rest ((sendHalf s i c).loaderEvents (es ++ [.read true])) := by
  rw [← sendHalf_loaderEvents, ← State.loaderEvents_append]
  rfl

theorem exec_load_notOpen {src : Source} (ho : src.opens = false) :
    exec (.loadPaletteFromSource src) s = .next (s.loaderEvents [.openFailed]) := by
  simp only [exec, execLoadPaletteFromSource, ho, Bool.not_false, if_true]; rfl

theorem exec_load_open {src : Source} (ho : src.opens = true) :
    exec (.loadPaletteFromSource src) s = .next (loadHalves [0, 128] src.reads (s.loaderEvents [.opened])) := by
  simp only [exec, execLoadPaletteFromSource, ho, Bool.not_true, Bool.false_eq_true, if_false]; rfl

theorem exec_load_noChunk {src : Source} (ho : src.opens = true) (hr : src.reads.head?.join = none) :
    exec (.loadPaletteFromSource src) s = .next (s.loaderEvents [.opened, .read false, .closed]) := by
  rw [exec_load_open s ho, loadHalves_failed _ _ _ _ hr]; rfl

theorem exec_load_oneChunk {src : Source} {c0 : Block} {more : List (Option Block)} (ho : src.opens = true)
    (hr : src.reads = some c0 :: more) (hmore : more.head?.join = none) : exec (.loadPaletteFromSource src) s =
      .next ((sendHalf s 0 c0).loaderEvents [.opened, .read true, .read false, .closed]) := by
  rw [exec_load_open s ho, hr, loadHalves_chunk, loadHalves_failed _ _ _ _ hmore]; rfl

theorem exec_load_twoChunks {src : Source} {c0 c1 : Block} {rest : List (Option Block)} (ho : src.opens = true)
    (hr : src.reads = some c0 :: some c1 :: rest) : exec (.loadPaletteFromSource src) s =
      .next ((sendHalf (sendHalf s 0 c0) 128 c1).loaderEvents [.opened, .read true, .read true, .closed]) := by
  rw [exec_load_open s ho, hr, loadHalves_chunk, loadHalves_chunk, loadHalves_nil]; rfl

end

/-- Behind the ports after both halves: the first chunk, then the second, then what was there before, and the cursor back
at entry 0. -/
theorem bothHalves_port (s : State) (hd : idsDiffer s.cfg) (c0 c1 : Block) :
    (∀ n, n < 256 → (sendHalf (sendHalf s 0 c0) 128 c1).port.pal.written n = c0.toList[n]?) ∧
    (∀ n, n < 256 → (sendHalf (sendHalf s 0 c0) 128 c1).port.pal.written (256 + n) = c1.toList[n]?) ∧
    (∀ a, 512 ≤ a → (sendHalf (sendHalf s 0 c0) 128 c1).port.pal.written a = s.port.pal.written a) ∧
    (∃ pal, (sendHalf (sendHalf s 0 c0) 128 c1).port = { s.port with
      pal := pal, palIndex := 0#8, palHalf := false, regSel := s.cfg.regPalData, regChosen := true }) ∧
    (s.port.pal.wf → (sendHalf (sendHalf s 0 c0) 128 c1).port.pal.wf) := by
  obtain ⟨hin0, hout0, hport0, hwf0⟩ := sendHalf_port s hd (i := 0) (by decide) c0
  obtain ⟨hin1, hout1, hport1, hwf1⟩ := sendHalf_port (sendHalf s 0 c0) (by rwa [sendHalf_cfg]) (i := 128) (by decide) c1
  refine ⟨fun n hn => ?_, hin1, fun a ha => ?_,
    ⟨(sendHalf (sendHalf s 0 c0) 128 c1).port.pal, ?_⟩, fun h => hwf1 (hwf0 h)⟩
  · rw [hout1 n (.inl hn), ← hin0 n hn, Nat.mul_zero, Nat.zero_add]
  · rw [hout1 a (.inr ha), hout0 a (.inr (by omega))]
  · rw [hport1, hport0, sendHalf_cfg]
    rfl

theorem readPal_of_chunk {m : Memory} {a n : Nat} {c : Block} (hn : n < 256) (h : m.written a = c.toList[n]?) :
    some (m.read .pal a) = c.toList[n]? := Memory.some_read .pal h (by simp [hn])

/-- What the palette reads as after the first half alone. -/
theorem firstHalf_read (s : State) (hd : idsDiffer s.cfg) (c0 : Block) :
    (∀ a, a < 256 → some ((sendHalf s 0 c0).port.readPal a) = c0.toList[a]?) ∧
    ∀ a, 256 ≤ a → (sendHalf s 0 c0).port.readPal a = s.port.readPal a := by
  obtain ⟨hin, hout, -⟩ := sendHalf_port s hd (i := 0) (by decide) c0
  refine ⟨fun a ha => readPal_of_chunk ha ?_, fun a ha => Memory.read_congr .pal (hout a (.inr ha))⟩
  rw [← hin a ha, Nat.mul_zero, Nat.zero_add]

/-- What it reads as after both. -/
theorem bothHalves_read (s : State) (hd : idsDiffer s.cfg) (c0 c1 : Block) :
    (∀ a, a < 256 → some ((sendHalf (sendHalf s 0 c0) 128 c1).port.readPal a) = c0.toList[a]?) ∧
    ∀ a, a < 256 → some ((sendHalf (sendHalf s 0 c0) 128 c1).port.readPal (256 + a)) = c1.toList[a]? := by
  obtain ⟨hfirst, hsecond, -⟩ := bothHalves_port s hd c0 c1
  exact ⟨fun a ha => readPal_of_chunk ha (hfirst a ha), fun a ha => readPal_of_chunk ha (hsecond a ha)⟩

/-- Settles O48: one of the four courses of a load, by what the source delivers. -/
theorem loadPaletteKeepsLoadedHalves : Obligations.LoadPaletteKeepsLoadedHalves := by
  intro src s
  cases ho : src.opens with
  | false =>
    obtain ⟨hcfg, hengine, henv, hattr, hslot, hbyte, hpat, hpattern⟩ := (PaletteOnly.refl s).loaderEvents [.openFailed]
    exact ⟨_, exec_load_notOpen s ho, hcfg, hengine, henv, hattr, hslot, hbyte, hpat, hpattern, fun _ => ⟨rfl, rfl, rfl⟩,
      nofun, nofun⟩
  | true =>
    cases hr : src.reads.head?.join with
    | none =>
      obtain ⟨hcfg, hengine, henv, hattr, hslot, hbyte, hpat, hpattern⟩ :=
        (PaletteOnly.refl s).loaderEvents [.opened, .read false, .closed]
      exact ⟨_, exec_load_noChunk s ho hr, hcfg, hengine, henv, hattr, hslot, hbyte, hpat, hpattern, nofun,
        fun _ _ => ⟨rfl, rfl, rfl⟩, fun c0 more _ h => absurd hr (by simp [h])⟩
    | some c0 =>
      obtain ⟨more, hreads⟩ : ∃ more, src.reads = some c0 :: more :=
        List.head?_eq_some_iff.1 (Option.join_eq_some_iff.1 hr)
      have hone := sendHalf_paletteOnly s (i := 0) (by decide) c0
      cases hm : more.head?.join with
      | none =>
        obtain ⟨hcfg, hengine, henv, hattr, hslot, hbyte, hpat, hpattern⟩ :=
          hone.loaderEvents [.opened, .read true, .read false, .closed]
        refine ⟨_, exec_load_oneChunk s ho hreads hm, hcfg, hengine, henv, hattr, hslot, hbyte, hpat, hpattern, nofun, nofun,
          fun c more' _ h => ?_⟩
        cases hreads.symm.trans h
        exact ⟨fun hd => (firstHalf_read s hd c0).1, fun c1 rest h => absurd hm (by simp [h]),
          fun _ => ⟨fun hd => (firstHalf_read s hd c0).2, by simp [sendHalf_trace], by simp⟩⟩
      | some c1 =>
        obtain ⟨rest, rfl⟩ : ∃ rest, more = some c1 :: rest :=
          List.head?_eq_some_iff.1 (Option.join_eq_some_iff.1 hm)
        obtain ⟨hcfg, hengine, henv, hattr, hslot, hbyte, hpat, hpattern⟩ :=
          (hone.trans (sendHalf_paletteOnly _ (i := 128) (by decide) c1)).loaderEvents
            [.opened, .read true, .read true, .closed]
        refine ⟨_, exec_load_twoChunks s ho hreads, hcfg, hengine, henv, hattr, hslot, hbyte, hpat, hpattern, nofun, nofun,
          fun c more' _ h => ?_⟩
        cases hreads.symm.trans h
        refine ⟨fun hd => (bothHalves_read s hd c0 c1).1, fun c rest' h => ?_, nofun⟩
        cases h
        exact ⟨fun hd => (bothHalves_read s hd c0 c1).2, by simp [sendHalf_trace], by simp⟩

/-- Settles O49: the palette's written bytes after the second load are those after the first, address by address, and the
canonical form makes them the same store. -/
theorem paletteLoadIsIdempotent : Obligations.PaletteLoadIsIdempotent := by
  intro c0 c1 rest s hd hwf
  let t := (sendHalf (sendHalf s 0 c0) 128 c1).loaderEvents [.opened, .read true, .read true, .closed]
  have htcfg : t.cfg = s.cfg := by simp [t]
  obtain ⟨hfirst, hsecond, hrest, ⟨pal, hport⟩, hwf'⟩ := bothHalves_port s hd c0 c1
  obtain ⟨hfirst', hsecond', hrest', ⟨pal', hport'⟩, hwf''⟩ := bothHalves_port t (htcfg.symm ▸ hd) c0 c1
  have hsame : (sendHalf (sendHalf t 0 c0) 128 c1).port.pal = t.port.pal := by
    refine Memory.ext_of_wf (hwf'' (hwf' hwf)) (hwf' hwf) (fun a => ?_)
    rcases Nat.lt_or_ge a 256 with ha | ha
    · exact (hfirst' a ha).trans (hfirst a ha).symm
    · rcases Nat.lt_or_ge a 512 with ha' | ha'
      · obtain ⟨n, rfl⟩ := Nat.exists_eq_add_of_le ha
        exact (hsecond' n (by omega)).trans (hsecond n (by omega)).symm
      · exact hrest' a ha'
  have hpal : pal' = pal := by
    have hp' := congrArg Coproc.pal hport'
    rw [hsame, show t.port.pal = pal from congrArg Coproc.pal hport] at hp'
    exact hp'.symm
  have htport : t.port = { s.port with
      pal := pal, palIndex := 0#8, palHalf := false, regSel := s.cfg.regPalData, regChosen := true } := hport
  refine ⟨t, _, halfEvents s.cfg 0 c0 ++ halfEvents s.cfg 128 c1, exec_load_twoChunks s rfl rfl,
    exec_load_twoChunks t rfl rfl, ?_, by rw [htport], by rw [htport], by rw [htport], ?_, ?_, by simp⟩
  · rw [State.loaderEvents_port, hport', htport, hpal, htcfg]
  · rw [State.loaderEvents_trace, sendHalf_trace, sendHalf_trace, sendHalf_cfg, List.append_assoc]
  · rw [State.loaderEvents_trace, sendHalf_trace, sendHalf_trace, sendHalf_cfg, htcfg, List.append_assoc]

end Sys2Proof.Machine
end

section
/-! Each family of instructions keeps to its side (R13, R23, R33, R81): the record operations and slot selects to P_SLOT and P_ATTR,
the register and upload operations to the other ports, the animation operations to the engine. -/

namespace Sys2Proof.Machine

/-! ## The register and upload operations -/

/-- The operations that reach the register, pattern and palette side only (R100 to R107). -/
inductive SideInstr : Instr → Prop where
  | regSelect (v : Byte) : SideInstr (.regSelect v)
  | regWrite (v : Byte) : SideInstr (.regWrite v)
  | regRead : SideInstr .regRead
  | selectPatternSlot (v : Byte) : SideInstr (.selectPatternSlot v)
  | uploadPattern (b : List Byte) : SideInstr (.uploadPattern b)
  | uploadPatternSeries (b : Source) (n c : Nat) : SideInstr (.uploadPatternSeries b n c)
  | uploadPalette (b : Option (List Entry)) (n c : Nat) : SideInstr (.uploadPalette b n c)
  | loadPaletteFromSource (b : Source) : SideInstr (.loadPaletteFromSource b)

/-- An operation that checks one condition completes only where it holds. -/
theorem ite_next {p : Prop} [Decidable p] {u t : State} {r : Refusal}
    (h : (if p then .next u else .refused r : Result) = .next t) : p ∧ t = u := by
  split at h
  · next hp => cases h; exact ⟨hp, rfl⟩
  · cases h

theorem uploadPatternSeries_side {src : Source} {n c : Nat} {s t : State}
    (h : exec (.uploadPatternSeries src n c) s = .next t) : SideTraffic s t := by
  simp only [exec, execUploadPatternSeries] at h
  split at h
  · cases h; exact .loader _ (.refl _)
  · split at h
    · cases h; exact .loader _ (.loader _ (.refl _))
    · cases h
      exact .loader _ ((SideTraffic.regAccess _ _ _).trans ((SideTraffic.uploadBlocks _ _ _).trans (.loader _ (.refl _))))

theorem uploadPalette_side {b : Option (List Entry)} {n c : Nat} {s t : State}
    (h : exec (.uploadPalette b n c) s = .next t) : SideTraffic s t := by
  simp only [exec, execUploadPalette] at h
  split at h
  · cases h; exact .refl _
  · split at h
    · cases h; exact .refl _
    · split at h
      · cases h
      · cases h; exact .sendPalette _ _ _

/-- Such an operation, when it completes, is traffic of that side. -/
theorem SideInstr.traffic {i : Instr} {s t : State} (hi : SideInstr i) (h : exec i s = .next t) : SideTraffic s t := by
  cases hi with
  | regSelect v => cases h; exact .regSel _ _
  | regWrite v => obtain ⟨-, rfl⟩ := ite_next h; exact .regData _ _
  | regRead => obtain ⟨-, rfl⟩ := ite_next h; exact .readData (.refl _)
  | selectPatternSlot v => cases h; exact .regAccess _ _ _
  | uploadPattern b =>
    obtain ⟨-, rfl⟩ := ite_next h
    exact .writes (p := .pattern) _ _ (by decide) (by decide)
  | uploadPatternSeries src n c => exact uploadPatternSeries_side h
  | uploadPalette b n c => exact uploadPalette_side h
  | loadPaletteFromSource src =>
    simp only [exec, execLoadPaletteFromSource] at h
    split at h
    · cases h; exact .loader _ (.refl _)
    · cases h; exact .loader _ (.loadHalves _ _ _)

/-! ## The animation operations -/

/-- The operations of the engine that reach no port (R83 to R89), and those that begin a frame (R93, R94). -/
inductive AnimInstr : Instr → Prop where
  | spawn (k : Nat) (x y : Byte) (vx vy : Int) : AnimInstr (.spawn k x y vx vy)
  | init : AnimInstr .init
  | patcycle : AnimInstr .patcycle
  | hstep (k : Nat) : AnimInstr (.hstep k)
  | vstep (k : Nat) : AnimInstr (.vstep k)
  | tick : AnimInstr .tick
  | frame : AnimInstr .frame
  | run (n : Budget) : AnimInstr (.run n)

/-- The tick that begins a frame reaches no port. -/
theorem beginFrame_ports {s t : State} {l : Loop} (h : sequencerStep ((s.setLoop l).setSeq .update) = .next t) :
    t.port = s.port ∧ t.trace = s.trace := by
  obtain ⟨-, rfl⟩ := beginFrame_next h
  simp

theorem AnimInstr.ports {i : Instr} {s t : State} (hi : AnimInstr i) (h : exec i s = .next t) :
    t.port = s.port ∧ t.trace = s.trace := by
  cases hi with
  | spawn k x y vx vy => obtain ⟨-, -, dx, dy, -, -, rfl⟩ := exec_spawn_next h; exact ⟨rfl, rfl⟩
  | init => cases h; exact ⟨rfl, rfl⟩
  | patcycle => obtain ⟨-, rfl⟩ := onAllWritten_next h; exact ⟨patCycle_port s, patCycle_trace s⟩
  | hstep k => obtain ⟨sp, -, rfl⟩ := onSprite_next h; exact ⟨rfl, rfl⟩
  | vstep k => obtain ⟨sp, -, rfl⟩ := onSprite_next h; exact ⟨rfl, rfl⟩
  | tick => obtain ⟨-, rfl⟩ := onAllWritten_next h; exact ⟨tickAll_port s, tickAll_trace s⟩
  | frame => exact beginFrame_ports h
  | run n =>
    match n with
    | .finite 0 => obtain ⟨-, rfl⟩ := onAllWritten_next (f := fun u => u.setSeq .halt) h; exact ⟨rfl, rfl⟩
    | .finite (k + 1) => exact beginFrame_ports h
    | .infinite => exact beginFrame_ports h

/-! ## A further step of a loop -/

/-- Where nothing behind the ports has changed, nothing but the side of P_ATTR has. -/
theorem attrSide_of_eq {c d : Coproc} (h : d = c) :
    d = { c with attr := d.attr, attrSlot := d.attrSlot, attrByte := d.attrByte } := by subst h; rfl

theorem sequencerStep_attrSide {s t : State} (h : sequencerStep s = .next t) :
    t.port = { s.port with attr := t.port.attr, attrSlot := t.port.attrSlot, attrByte := t.port.attrByte } := by
  rcases sequencerStep_next h with ⟨-, -, rfl⟩ | ⟨-, -, rfl⟩ | ⟨-, rfl⟩ | ⟨-, rfl⟩ | ⟨-, rfl⟩
  · exact attrSide_of_eq (tickAll_port s)
  · exact emitSprites_port s
  · obtain ⟨-, hport, -⟩ := pollLeave_frame s
    exact attrSide_of_eq hport
  · obtain ⟨-, hport, -⟩ := pollEnter_frame s
    exact attrSide_of_eq hport
  · rfl

/-- Settles O57: the families' own lemmas. -/
theorem familiesKeepToTheirSide : Obligations.FamiliesKeepToTheirSide := by
  refine ⟨fun i s t h => ⟨fun hi => ?records, fun hi => ?side, fun hi => ?animation, fun hi => ?wait⟩,
    fun s t hl h => ?loop⟩
  case records =>
    rcases hi with hrec | ⟨v, rfl⟩ | rfl
    · obtain ⟨bytes, hbytes⟩ := Option.ne_none_iff_exists'.1 hrec
      cases (exec_recordOf hbytes).1.symm.trans h
      exact ⟨emit_engine s bytes, emit_port s bytes⟩
    · cases h; exact ⟨rfl, rfl⟩
    · obtain ⟨-, rfl⟩ := onAllWritten_next h
      exact ⟨emitSprites_engine s, emitSprites_port s⟩
  case side =>
    have hside : SideInstr i := by
      rcases hi with ⟨_, rfl⟩ | ⟨_, rfl⟩ | rfl | ⟨_, rfl⟩ | ⟨_, rfl⟩ | ⟨_, _, _, rfl⟩ | ⟨_, _, _, rfl⟩ | ⟨_, rfl⟩ <;>
        constructor
    obtain ⟨-, hengine, -, hattr, hslot, hbyte⟩ := (hside.traffic h).frame
    exact ⟨hengine, hattr, hslot, hbyte⟩
  case animation =>
    have hanim : AnimInstr i := by
      rcases hi with ⟨_, _, _, _, _, rfl⟩ | rfl | rfl | ⟨_, rfl⟩ | ⟨_, rfl⟩ | rfl | rfl | ⟨_, rfl⟩ <;> constructor
    exact hanim.ports h
  case wait =>
    subst hi
    obtain ⟨-, hport, -, -, -, htrace, -⟩ := pollLeave_frame ((s.setLoop .wait).setSeq .waitLeave)
    cases h
    exact ⟨hport, _, htrace⟩
  case loop =>
    obtain ⟨-, ⟨-, hloop⟩ | ⟨hnone, -⟩⟩ := step_next h
    · exact sequencerStep_attrSide hloop
    · exact absurd hnone hl

end Sys2Proof.Machine
end
